-- ==== Sys2Proof/Word.lean ====
section
/-! DEFINITION. The word types of the TFC: bytes and the two wider unsigned fields of a request
(00_scope.md R7, 30_encoding.md R38). -/

namespace Sys2Proof

/-- A byte, 0 to 255 (R7). -/
abbrev Byte := BitVec 8

/-- A 16-bit unsigned field: a length, SETTLE (R36, R12). -/
abbrev Half := BitVec 16

/-- A 32-bit unsigned field: BAUD (R12). -/
abbrev Word := BitVec 32

end Sys2Proof
end

