-- ==== Sys2Proof/Config.lean ====
section
/-! DEFINITION. What one TFC fixes (the parameters of 00_scope.md R6) and the free values the
environment draws (R8 `draw`, 60_exceptions.md R93). The constants at the end have no body: nothing can
be proved of their values. -/

namespace Sys2Proof

/-- A name the source leaves opaque: the port, a date or time format, the duration unit (R6, log 18). -/
abbrev Name := Nat

/-- A transport handle (10_state.md R23); which value a handle has is the transport's (log 22). -/
abbrev Handle := Nat

/-- `P_WRITE_COMPLETION`: when the transport's `write` returns (R6, D12). -/
inductive WriteCompletion where
  /-- As soon as the transport has taken the bytes. -/
  | onAccept
  /-- When the bytes have been shifted out. -/
  | onShifted
  deriving DecidableEq, Repr, Inhabited

/-- `P_CLOCK_DIGIT_ORDER` (R6, D20); the spec's default is ONES_FIRST. -/
inductive DigitOrder where
  | onesFirst
  | tensFirst
  deriving DecidableEq, Repr, Inhabited

/-- `P_ALIGN`: the byte of each alignment (R6, 45_command_payloads.md R70). -/
structure AlignBytes where
  left   : Byte
  right  : Byte
  center : Byte
  scroll : Byte
  deriving DecidableEq, Repr, Inhabited

/-- `P_ATTR`: the byte of each named attribute flag (R6, R69). -/
structure AttrBytes where
  blink       : Byte
  invert      : Byte
  blinkInvert : Byte
  deriving DecidableEq, Repr, Inhabited

/-- The OPEN parameters of R6, as plain data (log 5). A partial function on a finite domain is the list
of its pairs; a predicate is the list of the values it accepts. -/
structure Params where
  /-- `P_BAUD_OK`: the rates the transport accepts (D10). -/
  baudOk          : List Word
  /-- `P_TE_LEAD_MS` (D13). -/
  teLeadMs        : Nat
  /-- `P_WRITE_COMPLETION` (D12). -/
  writeCompletion : WriteCompletion
  /-- `P_MAX_PAYLOAD` less its least value 2; the type keeps 2 ≤ `P_MAX_PAYLOAD` ≤ 32765 (D7). -/
  payloadExtra    : Fin 32764
  /-- `P_PORT`. -/
  port            : Name
  /-- `P_CODEPAGE` (D22). -/
  codepage        : List (Char × Byte)
  /-- `P_ALIGN` (D19). -/
  align           : AlignBytes
  /-- `P_ATTR` (D19). -/
  attr            : AttrBytes
  /-- `P_DATE_FMT` (D21). -/
  dateFmt         : List (Name × Byte)
  /-- `P_TIME_FMT` (D21). -/
  timeFmt         : List (Name × Byte)
  /-- `P_DURATION_UNIT`: named, and used by no rule of the TFC (R73, I5). -/
  durationUnit    : Name
  /-- `P_CLOCK_DIGIT_ORDER` (D20). -/
  clockDigitOrder : DigitOrder
  deriving DecidableEq, Repr, Inhabited

/-- `P_MAX_PAYLOAD` (R6): between 2 and 32765 by its type. -/
def Params.maxPayload (p : Params) : Nat := p.payloadExtra.val + 2

/-- How a transport call or a wait ends: it answers ok, it answers fail, or it never returns
(R93, 41_link.md R66, I14). -/
inductive DrawOutcome where
  | ok
  | fail
  | never
  deriving DecidableEq, Repr, Inhabited

/-- Everything the environment chooses at one transport call or wait (R8 `draw`, R93). Each call reads
the fields that concern it (log 4). -/
structure Draw where
  /-- How the call ends. -/
  outcome : DrawOutcome
  /-- The handle a successful `configure` returns. -/
  handle  : Handle
  /-- How many bytes a failing `write` had taken, cut to the frame's length (R8 `fail(k)`). -/
  taken   : Nat
  /-- What the TE bit records after a failed `set_signal` (10_state.md R20). -/
  level   : Bool
  /-- The physical level of the TE line where the spec leaves it open (I12). -/
  line    : Bool
  /-- How many bytes of the transport's output buffer have been shifted out by the end of the call (I6). -/
  shifted : Nat
  deriving DecidableEq, Repr, Inhabited

/-- The parameters of this TFC: free, no value of them can be proved (R6 "OPEN is an argument of the
model"; log 5). -/
opaque Config.params : Params

/-- The environment's n-th choice: free (R8 `draw`; log 4). -/
opaque Config.draw : Nat → Draw

/-- How many bytes leave the transport's output buffer before the n-th request, command call or idle step: free
(70_reset_and_hazards.md R100 "the tail of the telegram goes out with the bus released"; log 24). -/
opaque Config.gap : Nat → Nat

/-- The level of the TE line at the first reset: not specified (70_reset_and_hazards.md R97; log 6). -/
opaque Config.resetTeLine : Bool

end Sys2Proof
end

