-- ==== Sys2Proof/Syntax.lean ====
section
/-! DEFINITION. The instructions: one constructor per row of spec/opcode_table.json, the commands of
45_command_payloads.md as the host calls them, and what a host can present to the TFC. -/

namespace Sys2Proof

/-- The alignment operand (45_command_payloads.md R70). -/
inductive Align where
  | left
  | right
  | center
  | scroll
  deriving DecidableEq, Repr

/-- An attribute operand of a styled run: a byte value, or one of the named flags of `P_ATTR` (R69). -/
inductive Attr where
  | value (n : Int)
  | blink
  | invert
  | blinkInvert
  deriving DecidableEq, Repr

/-- One styled run: a text with an attribute (R69). -/
structure StyledRun where
  text : List Char
  attr : Attr
  deriving DecidableEq, Repr

/-- A text operand, a tagged variant (R69). -/
inductive Text where
  | plain (t : List Char)
  | styled (runs : List StyledRun)
  deriving DecidableEq, Repr

/-- The instructions. The first ten are the request port's (30_encoding.md R37), the last six the
pseudo-instructions (R49). Operands of a request are its fields (R38); operands of a pseudo-instruction
are domain values, whole numbers that its encoder checks (R68). -/
inductive Instr where
  /-- INIT (R59). -/
  | init (addr : Byte) (baud : Word) (flags : Byte) (settle : Half)
  /-- CKSUM (R51). -/
  | cksum (data : List Byte)
  /-- ESC (R52). -/
  | esc (data : List Byte)
  /-- UNESC (R53). -/
  | unesc (data : List Byte)
  /-- BUILD (R54). -/
  | build (addr : Byte) (payload : List Byte)
  /-- XMIT (R60). -/
  | xmit (frame : List Byte)
  /-- SEND (R64). -/
  | send (code : Byte) (subcode : Byte) (data : List Byte)
  /-- STATUS (R65). -/
  | status
  /-- The row (illegal) of opcode 0x00, with the bytes after the opcode (R81). -/
  | illegalZero (tail : List Byte)
  /-- The row (illegal) of opcodes 0x09 to 0xFF, with the bytes after the opcode (R81). -/
  | illegalOpcode (opcode : Byte) (tail : List Byte)
  /-- SIMPLE_TEXT (R71). -/
  | simpleText (page row col : Int) (text : Text) (align : Align)
  /-- TEXT (R72). -/
  | text (page row colStart colEnd : Int) (text : Text) (align : Align)
  /-- SET_PAGES: pairs of page and duration (R73). -/
  | setPages (pairs : List (Int × Int))
  /-- SET_PAGE (R74). -/
  | setPage (page : Int)
  /-- SET_CLOCK (R75). -/
  | setClock (year month day hour minute second : Int)
  /-- SET_CLOCK_DISPLAY (R76). -/
  | setClockDisplay (dateFormat : Name) (dateRow dateColStart dateColEnd : Int)
      (timeFormat : Name) (timeRow timeColStart timeColEnd : Int)
  deriving DecidableEq, Repr

/-- A call of one of the source's six public operations (30_encoding.md R49), made on the host side. -/
inductive Command where
  | simpleText (page row col : Int) (text : Text) (align : Align)
  | text (page row colStart colEnd : Int) (text : Text) (align : Align)
  | setPages (pairs : List (Int × Int))
  | setPage (page : Int)
  | setClock (year month day hour minute second : Int)
  | setClockDisplay (dateFormat : Name) (dateRow dateColStart dateColEnd : Int)
      (timeFormat : Name) (timeRow timeColStart timeColEnd : Int)
  deriving DecidableEq, Repr

/-- The pseudo-instruction a command call is. -/
def Command.toInstr : Command → Instr
  | .simpleText page row col t align => .simpleText page row col t align
  | .text page row colStart colEnd t align => .text page row colStart colEnd t align
  | .setPages pairs => .setPages pairs
  | .setPage page => .setPage page
  | .setClock year month day hour minute second => .setClock year month day hour minute second
  | .setClockDisplay df dr dcs dce tf tr tcs tce => .setClockDisplay df dr dcs dce tf tr tcs tce

/-- What the host presents: a whole request (30_encoding.md R35), a command call that its encoder turns
into a request (45_command_payloads.md R68), a reset, or a request or call that a reset meets while it is
in progress (70_reset_and_hazards.md R97, log 11). -/
inductive HostItem where
  | request (q : List Byte)
  | command (c : Command)
  | reset
  /-- A request, and a reset that lands after the TFC has taken it and before its response has left. -/
  | requestCut (q : List Byte)
  /-- A command call, and a reset that lands while its request is in progress, or once its encoder has
  refused. -/
  | commandCut (c : Command)
  deriving DecidableEq, Repr

end Sys2Proof
end

