-- ==== Sys2Proof/Machine/Operands.lean ====
section
/-! DEFINITION. Operand forms: the big-endian fields of requests, responses and payloads
(00_scope.md R7, 30_encoding.md R38, R47) and the checked operands of the command encoders
(45_command_payloads.md R68 to R70, R75). -/

namespace Sys2Proof.Machine

/-- `be16(v)`, high byte first (R7). -/
def be16 (v : Nat) : List Byte := [BitVec.ofNat 8 (v / 256), BitVec.ofNat 8 v]

/-- `be32(v)`, high byte first (R7). -/
def be32 (v : Nat) : List Byte :=
  [BitVec.ofNat 8 (v / 16777216), BitVec.ofNat 8 (v / 65536), BitVec.ofNat 8 (v / 256), BitVec.ofNat 8 v]

/-- The value of a 16-bit field (R38). -/
def be16Value (hi lo : Byte) : Nat := hi.toNat * 256 + lo.toNat

/-- The value of a 32-bit field (R38). -/
def be32Value (b3 b2 b1 b0 : Byte) : Nat :=
  b3.toNat * 16777216 + b2.toNat * 65536 + b1.toNat * 256 + b0.toNat

/-- A single-byte field: 0 to 255, else the encoder raises ENCODING_ERROR (R68). -/
def byteOperand (v : Int) : Option Byte :=
  if 0 ≤ v ∧ v ≤ 255 then some (BitVec.ofNat 8 v.toNat) else none

/-- A 16-bit field: 0 to 65535, else the encoder raises ENCODING_ERROR; its bytes are `be16` (R47, R68). -/
def halfOperand (v : Int) : Option (List Byte) :=
  if 0 ≤ v ∧ v ≤ 65535 then some (be16 v.toNat) else none

/-- `dg(v)`: one clock field, 0 to 99, as two digit bytes in the order of `P_CLOCK_DIGIT_ORDER` (R75). -/
def clockDigits (p : Params) (v : Int) : Option (List Byte) :=
  if 0 ≤ v ∧ v ≤ 99 then
    match p.clockDigitOrder with
    | .onesFirst => some [BitVec.ofNat 8 (v.toNat % 10), BitVec.ofNat 8 (v.toNat / 10)]
    | .tensFirst => some [BitVec.ofNat 8 (v.toNat / 10), BitVec.ofNat 8 (v.toNat % 10)]
  else none

/-- `P_ALIGN(align)` (R70). -/
def alignByte (p : Params) : Align → Byte
  | .left => p.align.left
  | .right => p.align.right
  | .center => p.align.center
  | .scroll => p.align.scroll

/-- An attribute byte: a value 0 to 255, or a named flag's byte of `P_ATTR` (R69). -/
def attrByte (p : Params) : Attr → Option Byte
  | .value n => byteOperand n
  | .blink => some p.attr.blink
  | .invert => some p.attr.invert
  | .blinkInvert => some p.attr.blinkInvert

/-- `cp(t)`: none where some character has no byte in `P_CODEPAGE` (R69). -/
def codepageBytes (p : Params) : List Char → Option (List Byte)
  | [] => some []
  | c :: t =>
    match p.codepage.lookup c, codepageBytes p t with
    | some b, some r => some (b :: r)
    | _, _ => none

/-- The bytes of a list of styled runs (R69). -/
def runBytes (p : Params) : List StyledRun → Option (List Byte)
  | [] => some []
  | r :: t =>
    match attrByte p r.attr, codepageBytes p r.text, runBytes p t with
    | some a, some b, some rest => some (0x00#8 :: a :: (b ++ rest))
    | _, _, _ => none

/-- `etb(text)` (R69); none where the encoder raises ENCODING_ERROR. -/
def encodedText (p : Params) : Text → Option (List Byte)
  | .plain t => codepageBytes p t
  | .styled runs => runBytes p runs

/-- The flattened pairs of SET_PAGES, in list order, each value one byte (R73). -/
def pairBytes : List (Int × Int) → Option (List Byte)
  | [] => some []
  | (page, duration) :: t =>
    match byteOperand page, byteOperand duration, pairBytes t with
    | some a, some d, some rest => some (a :: d :: rest)
    | _, _, _ => none

end Sys2Proof.Machine
end

