-- ==== Sys2Proof/Machine/Encoders.lean ====
section
/-! DEFINITION. The command encoders (45_command_payloads.md R71 to R76): pure functions from domain
operands to the data field of one SEND; none where the encoder raises ENCODING_ERROR on the host side. -/

namespace Sys2Proof.Machine

/-- The command codes of 30_encoding.md R46. -/
def codeSimpleText : Byte := 0x11#8
def codeText : Byte := 0x15#8
def codeSetPages : Byte := 0x24#8
def codeSetClock : Byte := 0x3A#8
def codeSetClockDisplay : Byte := 0x3D#8

/-- The subcode of every encoder (R68). -/
def encoderSubcode : Byte := 0x00#8

/-- SIMPLE_TEXT (R71). -/
def simpleTextData (p : Params) (page row col : Int) (t : Text) (align : Align) : Option (List Byte) :=
  match byteOperand page, byteOperand row, byteOperand col, encodedText p t with
  | some pg, some r, some c, some e => some ([alignByte p align, pg, r, c] ++ e)
  | _, _, _, _ => none

/-- TEXT (R72); `col_start ≤ col_end` is not checked. -/
def textData (p : Params) (page row colStart colEnd : Int) (t : Text) (align : Align) : Option (List Byte) :=
  match byteOperand page, byteOperand row, halfOperand colStart, halfOperand colEnd, encodedText p t with
  | some pg, some r, some cs, some ce, some e => some ([alignByte p align, pg, r] ++ cs ++ ce ++ e)
  | _, _, _, _, _ => none

/-- SET_PAGES (R73). -/
def setPagesData (pairs : List (Int × Int)) : Option (List Byte) :=
  (pairBytes pairs).map (0x00#8 :: ·)

/-- SET_PAGE: sugar for SET_PAGES with the one pair (page, 255) (R74). -/
def setPageData (page : Int) : Option (List Byte) := setPagesData [(page, 255)]

/-- SET_CLOCK: second, minute, hour, day, month, year, then the weekday byte 0x00 (R75). -/
def setClockData (p : Params) (year month day hour minute second : Int) : Option (List Byte) :=
  match clockDigits p second, clockDigits p minute, clockDigits p hour,
      clockDigits p day, clockDigits p month, clockDigits p year with
  | some s, some mi, some h, some d, some mo, some y => some (s ++ mi ++ h ++ d ++ mo ++ y ++ [0x00#8])
  | _, _, _, _, _, _ => none

/-- SET_CLOCK_DISPLAY (R76). A format name outside its map is an invalid operand (log 17). -/
def setClockDisplayData (p : Params) (dateFormat : Name) (dateRow dateColStart dateColEnd : Int)
    (timeFormat : Name) (timeRow timeColStart timeColEnd : Int) : Option (List Byte) :=
  match p.dateFmt.lookup dateFormat, byteOperand dateRow, halfOperand dateColStart, halfOperand dateColEnd,
      p.timeFmt.lookup timeFormat, byteOperand timeRow, halfOperand timeColStart, halfOperand timeColEnd with
  | some df, some dr, some dcs, some dce, some tf, some tr, some tcs, some tce =>
    some ([df, dr] ++ dcs ++ dce ++ [tf, tr] ++ tcs ++ tce)
  | _, _, _, _, _, _, _, _ => none

/-- The request an instruction stands for: itself, or the one SEND a pseudo-instruction expands to, or
none where its encoder raises ENCODING_ERROR (30_encoding.md R49). -/
def expand (p : Params) : Instr → Option Instr
  | .simpleText page row col t align =>
    (simpleTextData p page row col t align).map (.send codeSimpleText encoderSubcode ·)
  | .text page row colStart colEnd t align =>
    (textData p page row colStart colEnd t align).map (.send codeText encoderSubcode ·)
  | .setPages pairs => (setPagesData pairs).map (.send codeSetPages encoderSubcode ·)
  | .setPage page => (setPageData page).map (.send codeSetPages encoderSubcode ·)
  | .setClock year month day hour minute second =>
    (setClockData p year month day hour minute second).map (.send codeSetClock encoderSubcode ·)
  | .setClockDisplay df dr dcs dce tf tr tcs tce =>
    (setClockDisplayData p df dr dcs dce tf tr tcs tce).map (.send codeSetClockDisplay encoderSubcode ·)
  | .init addr baud flags settle => some (.init addr baud flags settle)
  | .cksum data => some (.cksum data)
  | .esc data => some (.esc data)
  | .unesc data => some (.unesc data)
  | .build addr payload => some (.build addr payload)
  | .xmit frame => some (.xmit frame)
  | .send code subcode data => some (.send code subcode data)
  | .status => some .status
  | .illegalZero tail => some (.illegalZero tail)
  | .illegalOpcode opcode tail => some (.illegalOpcode opcode tail)

end Sys2Proof.Machine
end

