-- ==== Sys2Proof/WellFormed.lean ====
section
/-! DEFINITION. Well-formed instructions: those whose operands fit the request format (30_encoding.md
R36, R38, R40). Range checks on field values are no part of it (R39): they are errors of the meaning. -/

namespace Sys2Proof

/-- A byte sequence that a 16-bit length field can count (R36). -/
def fitsLength (b : List Byte) : Bool := b.length ≤ 65535

/-- The number of bytes `etb(text)` has when it is defined (45_command_payloads.md R69). -/
def Text.encodedLength : Text → Nat
  | .plain t => t.length
  | .styled runs => (runs.map fun r => r.text.length + 2).sum

/-- The syntactic check. A request's sequence fits its length field (R36); an illegal row's opcode is
0x09 to 0xFF (R40); a command's SEND data fits SEND's length field (R38, R49). -/
def WellFormed : Instr → Bool
  | .init _ _ _ _ => true
  | .cksum data => fitsLength data
  | .esc data => fitsLength data
  | .unesc data => fitsLength data
  | .build _ payload => fitsLength payload
  | .xmit frame => fitsLength frame
  | .send _ _ data => fitsLength data
  | .status => true
  | .illegalZero _ => true
  | .illegalOpcode opcode _ => 9 ≤ opcode.toNat
  | .simpleText _ _ _ t _ => t.encodedLength + 4 ≤ 65535
  | .text _ _ _ _ t _ => t.encodedLength + 7 ≤ 65535
  | .setPages pairs => 2 * pairs.length + 1 ≤ 65535
  | .setPage _ => true
  | .setClock _ _ _ _ _ _ => true
  | .setClockDisplay _ _ _ _ _ _ _ _ => true

end Sys2Proof
end

