-- ==== Sys2Proof/Decode.lean ====
section
/-! DEFINITION. Decoding a request (30_encoding.md R37 to R40, R50), total on every byte sequence, and
after it the encoder. A request that is not well-formed is rejected by name; the step answers it with
ILLEGAL_REQUEST (60_exceptions.md R81). -/

namespace Sys2Proof

open Sys2Proof.Machine

/-- Why a byte sequence is not a well-formed request (R39), illegal opcodes apart: those are the rows
`illegalZero` and `illegalOpcode`. -/
inductive Reject where
  /-- `len(q) = 0`: there is no opcode. -/
  | noOpcode
  /-- The request ends before its length field does. -/
  | noLengthField
  /-- `len(q)` is not the total length of R38. -/
  | lengthMismatch
  deriving DecidableEq, Repr

/-- The fields of INIT after the opcode (R38). -/
def decodeInit : List Byte → Except Reject Instr
  | [addr, b3, b2, b1, b0, flags, s1, s0] =>
    .ok (.init addr (BitVec.ofNat 32 (be32Value b3 b2 b1 b0)) flags (BitVec.ofNat 16 (be16Value s1 s0)))
  | _ => .error .lengthMismatch

/-- A length field and the sequence it counts, which ends the request (R38, R39). -/
def decodeSequence (make : List Byte → Instr) : List Byte → Except Reject Instr
  | hi :: lo :: data => if data.length = be16Value hi lo then .ok (make data) else .error .lengthMismatch
  | _ => .error .noLengthField

/-- The fields of BUILD after the opcode (R38). -/
def decodeBuild : List Byte → Except Reject Instr
  | addr :: t => decodeSequence (.build addr) t
  | [] => .error .noLengthField

/-- The fields of SEND after the opcode (R38). -/
def decodeSend : List Byte → Except Reject Instr
  | code :: subcode :: t => decodeSequence (.send code subcode) t
  | _ => .error .noLengthField

/-- STATUS has no field (R38). -/
def decodeStatus : List Byte → Except Reject Instr
  | [] => .ok .status
  | _ :: _ => .error .lengthMismatch

/-- The decoder: the opcode map of R37 and the formats of R38. -/
def decode : List Byte → Except Reject Instr
  | [] => .error .noOpcode
  | opcode :: t =>
    match opcode.toNat with
    | 0 => .ok (.illegalZero t)
    | 1 => decodeInit t
    | 2 => decodeSequence .cksum t
    | 3 => decodeSequence .esc t
    | 4 => decodeSequence .unesc t
    | 5 => decodeBuild t
    | 6 => decodeSequence .xmit t
    | 7 => decodeSend t
    | 8 => decodeStatus t
    | _ => .ok (.illegalOpcode opcode t)

/-- The length field at the front of a byte sequence. -/
def lengthFieldAt : List Byte → Option Nat
  | hi :: lo :: _ => some (be16Value hi lo)
  | _ => none

/-- How a decoder finds a request's length from its first bytes (R50); none where a byte it needs is
missing or the opcode is illegal. -/
def requestLength : List Byte → Option Nat
  | [] => none
  | opcode :: t =>
    match opcode.toNat with
    | 1 => some 9
    | 2 => (lengthFieldAt t).map (3 + ·)
    | 3 => (lengthFieldAt t).map (3 + ·)
    | 4 => (lengthFieldAt t).map (3 + ·)
    | 5 => (lengthFieldAt (t.drop 1)).map (4 + ·)
    | 6 => (lengthFieldAt t).map (3 + ·)
    | 7 => (lengthFieldAt (t.drop 2)).map (5 + ·)
    | 8 => some 1
    | _ => none

/-- A sequence after its length field (R36, R38). -/
def encodeSequence (data : List Byte) : List Byte := be16 data.length ++ data

/-- The bytes of a request (R38). A pseudo-instruction has no bytes of its own here: `encode` expands it
first. -/
def encodeRequest : Instr → List Byte
  | .init addr baud flags settle => [0x01#8, addr] ++ be32 baud.toNat ++ [flags] ++ be16 settle.toNat
  | .cksum data => 0x02#8 :: encodeSequence data
  | .esc data => 0x03#8 :: encodeSequence data
  | .unesc data => 0x04#8 :: encodeSequence data
  | .build addr payload => 0x05#8 :: addr :: encodeSequence payload
  | .xmit frame => 0x06#8 :: encodeSequence frame
  | .send code subcode data => 0x07#8 :: code :: subcode :: encodeSequence data
  | .status => [0x08#8]
  | .illegalZero tail => 0x00#8 :: tail
  | .illegalOpcode opcode tail => opcode :: tail
  | .simpleText _ _ _ _ _ => []
  | .text _ _ _ _ _ _ => []
  | .setPages _ => []
  | .setPage _ => []
  | .setClock _ _ _ _ _ _ => []
  | .setClockDisplay _ _ _ _ _ _ _ _ => []

/-- The encoder: the request an instruction is on the port, under the parameters `p`; none exactly where
a command encoder raises ENCODING_ERROR and no request is issued (R49). -/
def encode (p : Params) (i : Instr) : Option (List Byte) := (expand p i).map encodeRequest

/-- The first `n` bytes of a number whose byte 0 is its least significant (the opcode table's numbering). -/
def tableBytes : Nat → Nat → List Byte
  | 0, _ => []
  | n + 1, w => BitVec.ofNat 8 w :: tableBytes n (w / 256)

/-- The request that begins with the bytes `q` and goes on with zeros, cut at its own length (R50). -/
def zeroFilled (q : List Byte) : List Byte :=
  match requestLength (q ++ List.replicate 5 0x00#8) with
  | some n => (q ++ List.replicate n 0x00#8).take n
  | none => q

/-- The command rows of the opcode table: code and subcode 0x00 read as one 16-bit number, operands zero
(log 15). -/
def tableCommand : Nat → Option Command
  | 0x1100 => some (.simpleText 0 0 0 (.plain []) .left)
  | 0x1500 => some (.text 0 0 0 0 (.plain []) .left)
  | 0x2400 => some (.setPages [])
  | 0x3A00 => some (.setClock 0 0 0 0 0 0)
  | 0x3D00 => some (.setClockDisplay 0 0 0 0 0 0 0 0)
  | _ => none

/-- What the host presents for a row of the opcode table: a command call for a 16-bit row of the command
codes, else the request of its bytes. -/
def tableItem (nbits w : Nat) : HostItem :=
  match (if nbits = 16 then tableCommand w else none) with
  | some c => .command c
  | none => .request (zeroFilled (tableBytes (nbits / 8) w))

/-- The instruction the decoder reads from a row's bits (log 15). -/
def decodeTableWord (nbits w : Nat) : Option Instr :=
  match tableItem nbits w with
  | .request q => (decode q).toOption
  | .command c => some c.toInstr
  | .reset => none
  | .requestCut _ => none
  | .commandCut _ => none

end Sys2Proof
end

