-- ==== Sys2Proof/Machine/State.lean ====
section
/-! DEFINITION. The state of the TFC as plain data (10_state.md R12 to R25), the events of TRACE (R21),
what the host sees (30_encoding.md R35), the reasons a step can stop, and the state after reset
(70_reset_and_hazards.md R96). -/

namespace Sys2Proof.Machine

/-- STATE, the operating state; the reserved value 3 cannot be written down (R18, I10, log 19). -/
inductive OpState where
  | uninit
  | ready
  | failed
  deriving DecidableEq, Repr

/-- PHASE, where an XMIT or SEND is in the transmit-enable sequence (R19). -/
inductive Phase where
  | idle
  | assert
  | lead
  | write
  | hold
  | release
  deriving DecidableEq, Repr

/-- The status codes (30_encoding.md R42). -/
inductive Status where
  | ok
  | encodingError
  | transportError
  | illegalRequest
  | notReady
  | decodeError
  deriving DecidableEq, Repr

/-- The parity argument of `configure`; the TFC only ever passes `even` (R17). -/
inductive Parity where
  | none
  | odd
  | even
  deriving DecidableEq, Repr

/-- The answer of `configure` (60_exceptions.md R93); `pending` while it has not returned (log 12). -/
inductive ConfigureAnswer where
  | ok (h : Handle)
  | fail
  | pending
  deriving DecidableEq, Repr

/-- The answer of `set_signal` (R93); `pending` while it has not returned (log 12). -/
inductive SignalAnswer where
  | ok
  | fail
  | pending
  deriving DecidableEq, Repr

/-- The answer of `write` (R93): `fail k` after the transport took the first `k` bytes; `pending` while it
has not returned (log 12). -/
inductive WriteAnswer where
  | ok
  | fail (k : Nat)
  | pending
  deriving DecidableEq, Repr

/-- One entry of TRACE (R21). -/
inductive Event where
  | configure (port : Name) (baud : Word) (parity : Parity) (stopBits : Nat) (exclusive : Bool)
      (answer : ConfigureAnswer)
  | close (h : Handle)
  | signal (level : Bool) (answer : SignalAnswer)
  | write (bytes : List Byte) (answer : WriteAnswer)
  | wait (ms : Nat)
  deriving DecidableEq, Repr

/-- A transport call or wait that has not returned (41_link.md R66, I14). -/
inductive PendingCall where
  | configure
  | close (h : Handle)
  | signal (level : Bool)
  | write (bytes : List Byte)
  | wait (ms : Nat)
  deriving DecidableEq, Repr

/-- What the host sees, in order (log 10). -/
inductive HostEvent where
  /-- A response left the response port (30_encoding.md R35). -/
  | response (r : List Byte)
  /-- A command encoder raised ENCODING_ERROR and issued no request (45_command_payloads.md R68). -/
  | encodingError
  /-- A reset ended a request in progress with no response (70_reset_and_hazards.md R97). -/
  | requestLost
  deriving DecidableEq, Repr

/-- The machine. The fields down to `waitingOn` are the spec's; the last six are the model's own. -/
@[ext]
structure State where
  /-- The OPEN parameters, which no step changes (00_scope.md R6, log 5). -/
  params    : Params
  /-- STATREG[1:0] (R18). -/
  opState   : OpState
  /-- STATREG[2], the level the TFC last drove (R20). -/
  te        : Bool
  /-- ADDR (R13). -/
  addr      : Byte
  /-- BAUD (R14). -/
  baud      : Word
  /-- CTRL (R15). -/
  ctrl      : Byte
  /-- SETTLE, milliseconds (R16). -/
  settle    : Half
  /-- LASTERR (R22). -/
  lastErr   : Status
  /-- PHASE (R19). -/
  phase     : Phase
  /-- HANDLE (R23). -/
  handle    : Option Handle
  /-- TRACE, oldest event first (R21). -/
  trace     : List Event
  /-- The transport's output buffer, oldest byte first (R24, log 8, 24). -/
  outBuf    : List Byte
  /-- The physical level of the TE line (70_reset_and_hazards.md R97, log 6). -/
  teLine    : Bool
  /-- The call the TFC is busy with for ever, if one has not returned (R66, log 3). -/
  waitingOn : Option PendingCall
  /-- What the host presents, in order (R33, log 1). -/
  inputs    : List HostItem
  /-- What the host has seen, oldest first (R35, log 10). -/
  hostLog   : List HostEvent
  /-- The environment's next choices (R8 `draw`, log 4). -/
  draws     : List Draw
  /-- How many choices have been taken (log 4). -/
  drawn     : Nat
  /-- How many bytes leave the output buffer in each coming gap between requests (R100, log 24). -/
  gaps      : List Nat
  /-- How many gaps have gone by (log 24). -/
  gapsTaken : Nat
  deriving DecidableEq, Repr

/-- Why the machine can make no step. -/
inductive Fault where
  /-- Raised by `step` alone: the transport call or wait never returned, so the TFC is busy for ever and
  takes no request (41_link.md R66, I14 `stuck`). Safe: the spec gives such a TFC no step but a reset. -/
  | hung (call : PendingCall)
  deriving DecidableEq, Repr

/-- Why an instruction has no meaning. -/
inductive Refusal where
  /-- Raised by `exec` for an arm that has no meaning; no arm of this model does. Safe. -/
  | notModelled (mnemonic : String)
  deriving DecidableEq, Repr

/-- The state after reset (R96). The parameters and the level of the TE line are free (log 5, 6). -/
def State.reset : State where
  params    := Config.params
  opState   := .uninit
  te        := false
  addr      := 0x00#8
  baud      := 9600#32
  ctrl      := 0x00#8
  settle    := 100#16
  lastErr   := .ok
  phase     := .idle
  handle    := none
  trace     := []
  outBuf    := []
  teLine    := Config.resetTeLine
  waitingOn := none
  inputs    := []
  hostLog   := []
  draws     := []
  drawn     := 0
  gaps      := []
  gapsTaken := 0

end Sys2Proof.Machine
end

