-- ==== Sys2Proof/Machine/Flags.lean ====
section
/-! DEFINITION. The TFC has no condition codes (10_state.md R25). Its status bits are computed here: the
byte STATREG (R12, R18, R20) and the code in LASTERR (30_encoding.md R42). -/

namespace Sys2Proof.Machine

/-- The value of STATE in STATREG[1:0] (R18). -/
def opStateCode : OpState → Byte
  | .uninit => 0#8
  | .ready => 1#8
  | .failed => 2#8

/-- The byte of a status code (R42). -/
def statusCode : Status → Byte
  | .ok => 0x00#8
  | .encodingError => 0x01#8
  | .transportError => 0x02#8
  | .illegalRequest => 0x03#8
  | .notReady => 0x04#8
  | .decodeError => 0x05#8

/-- STATREG: [1:0] STATE, [2] TE, [7:3] read as 0 (R12). -/
def statreg (s : State) : Byte := opStateCode s.opState ||| (if s.te then 0x04#8 else 0x00#8)

/-- CTRL[0], EXCL, of a flags byte (R15). -/
def exclusiveFlag (flags : Byte) : Bool := (flags &&& 0x01#8) == 0x01#8

/-- A flags byte with a reserved bit 7 to 1 set (R15). -/
def reservedFlags (flags : Byte) : Bool := (flags &&& 0xFE#8) != 0x00#8

end Sys2Proof.Machine
end

