-- ==== Sys2Proof/Machine/Telegram.lean ====
section
/-! DEFINITION. The pure framing functions: checksum, escaping and its inverse, the telegram, and how a
receiver finds a telegram's end (00_scope.md R9, 30_encoding.md R43, R50, 40_framing.md R51 to R58). -/

namespace Sys2Proof.Machine

/-- The framing constants of R9. -/
def SOT : Byte := 0x04#8
def STX : Byte := 0x02#8
def ETX : Byte := 0x03#8
def ENQ : Byte := 0x05#8
def DLE : Byte := 0x10#8
def ADDRFLAG : Byte := 0x80#8
def CKFLAG : Byte := 0x80#8

/-- ESCSET: the bytes the escaper stuffs (R9). -/
def ESCSET : List Byte := [STX, ETX, SOT, ENQ, DLE]

/-- Membership in ESCSET. -/
def isSpecial (b : Byte) : Bool := ESCSET.contains b

/-- `sum(b)`: the sum of the bytes as unsigned whole numbers (R7). -/
def byteSum : List Byte → Nat
  | [] => 0
  | b :: t => b.toNat + byteSum t

/-- `(sum(b) mod 256) | 0x80` (R51). -/
def checksum (b : List Byte) : Byte := BitVec.ofNat 8 (byteSum b % 256) ||| CKFLAG

/-- DLE-stuffing (R52). -/
def escape : List Byte → List Byte
  | [] => []
  | b :: t => if isSpecial b then DLE :: b :: escape t else b :: escape t

/-- The loop of R53; `escaped` says that the byte before was an escaping DLE. None is DECODE_ERROR. -/
def unescapeFrom : Bool → List Byte → Option (List Byte)
  | false, [] => some []
  | true, [] => none
  | true, b :: t => if isSpecial b then (unescapeFrom false t).map (b :: ·) else none
  | false, b :: t =>
    if b = DLE then unescapeFrom true t
    else if isSpecial b then none
    else (unescapeFrom false t).map (b :: ·)

/-- The inverse of `escape` on its image; none for any other input (R53). -/
def unescape (c : List Byte) : Option (List Byte) := unescapeFrom false c

/-- A device address byte the protocol allows: 1 to 127 (R54, C2). -/
def legalAddress (a : Byte) : Bool := 1 ≤ a.toNat && a.toNat ≤ 127

/-- The telegram of address `a` and payload `p` (R43, R54). -/
def telegram (a : Byte) (p : List Byte) : List Byte :=
  [SOT, ADDRFLAG ||| a, STX] ++ escape p ++ [ETX, checksum (p ++ [ETX])]

/-- The payload of a SEND (R45). -/
def sendPayload (code subcode : Byte) (data : List Byte) : List Byte := [code, subcode] ++ data

/-- Longer than `P_MAX_PAYLOAD` (R6). Written so that a length up to 2, which no legal limit refuses,
is decided without the limit. -/
def exceedsPayload (p : Params) (n : Nat) : Bool :=
  match n - 2 with
  | 0 => false
  | k + 1 => p.payloadExtra.val < k + 1

/-- How many bytes of an escaped payload stand before the first ETX that no escaping DLE precedes (R50). -/
def unescapedEtxAt : Bool → List Byte → Option Nat
  | _, [] => none
  | true, _ :: t => (unescapedEtxAt false t).map (· + 1)
  | false, b :: t =>
    if b = ETX then some 0
    else (unescapedEtxAt (b == DLE) t).map (· + 1)

/-- The length of the telegram at the front of a byte stream, as a receiver finds it (R50): three header
bytes, the escaped payload, ETX and one checksum byte. -/
def telegramLength (stream : List Byte) : Option Nat :=
  match unescapedEtxAt false (stream.drop 3) with
  | some n => if n + 5 ≤ stream.length then some (n + 5) else none
  | none => none

end Sys2Proof.Machine
end

