-- ==== Sys2Proof/Machine/Ops.lean ====
section
/-! DEFINITION. The shared operations: the environment's draws, responses, taking an error
(60_exceptions.md R86), the transport calls (00_scope.md R8, R93), the settle timer (R92), the
transmit-enable sequence and its failure path (41_link.md §1, R60), and reset (70_reset_and_hazards.md
R97). -/

namespace Sys2Proof.Machine

/-! ### Single updates -/

/-- PHASE <- p. -/
def setPhase (p : Phase) (s : State) : State := { s with phase := p }

/-- STATE <- o. -/
def setOpState (o : OpState) (s : State) : State := { s with opState := o }

/-- The TE bit and the TE line. -/
def setTe (bit line : Bool) (s : State) : State := { s with te := bit, teLine := line }

/-- The TE line alone, where the spec leaves its level open (I12). -/
def setLine (line : Bool) (s : State) : State := { s with teLine := line }

/-- HANDLE <- h. -/
def setHandle (h : Option Handle) (s : State) : State := { s with handle := h }

/-- The four configuration registers, which only INIT writes (R12). -/
def setConfig (addr : Byte) (baud : Word) (ctrl : Byte) (settle : Half) (s : State) : State :=
  { s with addr := addr, baud := baud, ctrl := ctrl, settle := settle }

/-- LASTERR <- e. -/
def setLastErr (e : Status) (s : State) : State := { s with lastErr := e }

/-- TRACE += e (R21). -/
def record (e : Event) (s : State) : State := { s with trace := s.trace ++ [e] }

/-- The host sees e. -/
def tellHost (e : HostEvent) (s : State) : State := { s with hostLog := s.hostLog ++ [e] }

/-- The transport's output buffer. -/
def setOutBuf (b : List Byte) (s : State) : State := { s with outBuf := b }

/-- The TFC is busy with a call that has not returned (R66). -/
def hang (c : PendingCall) (s : State) : State := { s with waitingOn := some c }

/-- The inputs that are left. -/
def setInputs (q : List HostItem) (s : State) : State := { s with inputs := q }

/-! ### The environment's draws -/

/-- The n-th choice from now: the listed ones first, then the free ones (log 4). -/
def drawAt (s : State) (n : Nat) : Draw :=
  match s.draws[n]? with
  | some d => d
  | none => Config.draw (s.drawn + n)

/-- The next choice is used up. -/
def consume (s : State) : State := { s with draws := s.draws.tail, drawn := s.drawn + 1 }

/-! ### The time between requests -/

/-- How many bytes leave the output buffer in the gap that comes next: the listed ones first, then the free ones
(log 24). -/
def nextGap (s : State) : Nat :=
  match s.gaps with
  | n :: _ => n
  | [] => Config.gap s.gapsTaken

/-- Time passes with no request in progress: the transport goes on shifting, so that a tail left in its buffer
when TE dropped goes out with the bus released (R24, R100). That it does so here, once before each request,
command call or idle step and not during a request that makes no transport call, is a DESIGN CHOICE (log 24). -/
def passTime (s : State) : State :=
  { s with outBuf := s.outBuf.drop (nextGap s), gaps := s.gaps.tail, gapsTaken := s.gapsTaken + 1 }

/-! ### Responses and errors -/

/-- A response leaves the port; LASTERR is untouched (STATUS alone uses it so, R22). -/
def emit (r : List Byte) (s : State) : State := tellHost (.response r) s

/-- `respond(result)`: LASTERR <- OK, then the response `[00] ++ result` (R8, R22, R41). -/
def respond (result : List Byte) (s : State) : State :=
  emit (statusCode .ok :: result) (setLastErr .ok s)

/-- `raise e`, taking an error: PHASE <- IDLE, LASTERR <- e, the one-byte response (R86). There is no
return from an error: the next request follows (R88). -/
def raise (e : Status) (s : State) : State :=
  emit [statusCode e] (setLastErr e (setPhase .idle s))

/-- A command encoder raises ENCODING_ERROR on the host side: the TFC sees nothing (R68). -/
def raiseOnHost (s : State) : State := tellHost .encodingError s

/-! ### The transport -/

/-- The answer of `configure`: a refused baud fails (D10); else as drawn. -/
def configureAnswer (p : Params) (baud : Word) (d : Draw) : ConfigureAnswer :=
  match d.outcome with
  | .never => .pending
  | .fail => .fail
  | .ok => if p.baudOk.contains baud then .ok d.handle else .fail

/-- The answer of `set_signal`. -/
def signalAnswer (d : Draw) : SignalAnswer :=
  match d.outcome with
  | .ok => .ok
  | .fail => .fail
  | .never => .pending

/-- The answer of `write`: `fail k` with any k from 0 to the frame's length (D15). -/
def writeAnswer (bytes : List Byte) (d : Draw) : WriteAnswer :=
  match d.outcome with
  | .ok => .ok
  | .fail => .fail (min d.taken bytes.length)
  | .never => .pending

/-- Whole characters that leave the line in `ms` milliseconds: 11 bit times each (R100, G1; log 8). -/
def charactersIn (ms : Nat) (baud : Word) : Nat := ms * baud.toNat / 11000

/-- `configure(P_PORT, baud, even, 1, exclusive)` (R17, R59). The line's level on the new handle is open
until `set_signal` (R97). -/
def configureCall (baud : Word) (exclusive : Bool) (s : State) : ConfigureAnswer × State :=
  let d := drawAt s 0
  let a := configureAnswer s.params baud d
  let t := setLine d.line (setOutBuf (s.outBuf.drop d.shifted)
    (record (.configure s.params.port baud .even 1 exclusive a) (consume s)))
  match a with
  | .pending => (a, hang .configure t)
  | .ok _ => (a, t)
  | .fail => (a, t)

/-- `close(h)`: it cannot fail (R8, D11); the first component says whether it returned. -/
def closeCall (h : Handle) (s : State) : Bool × State :=
  let d := drawAt s 0
  let t := setLine d.line (setOutBuf (s.outBuf.drop d.shifted) (record (.close h) (consume s)))
  match d.outcome with
  | .never => (false, hang (.close h) t)
  | .ok => (true, t)
  | .fail => (true, t)

/-- `set_signal(HANDLE, TE, level)`: TE takes the level on ok and a drawn value on fail (R20, D16). -/
def signalCall (level : Bool) (s : State) : SignalAnswer × State :=
  let d := drawAt s 0
  let t := record (.signal level (signalAnswer d)) (consume s)
  match signalAnswer d with
  | .ok => (.ok, setTe level level t)
  | .fail => (.fail, setTe d.level d.line t)
  | .pending => (.pending, hang (.signal level) (setLine d.line t))

/-- The transport's output buffer after a `write` that answered ok, with `n` bytes gone by then: empty under
ON_SHIFTED, what has not been shifted under ON_ACCEPT (R24, D12). -/
def bufferAfterWrite (c : WriteCompletion) (buf bytes : List Byte) (n : Nat) : List Byte :=
  match c with
  | .onShifted => []
  | .onAccept => (buf ++ bytes).drop n

/-- `write(HANDLE, bytes)`. A failing write has passed the first k bytes to the buffer (R24, R63, D12,
D15). -/
def writeCall (bytes : List Byte) (s : State) : WriteAnswer × State :=
  let d := drawAt s 0
  let a := writeAnswer bytes d
  let t := record (.write bytes a) (consume s)
  match a with
  | .ok => (.ok, setOutBuf (bufferAfterWrite s.params.writeCompletion s.outBuf bytes d.shifted) t)
  | .fail k => (.fail k, setOutBuf ((s.outBuf ++ bytes.take k).drop d.shifted) t)
  | .pending => (.pending, hang (.write bytes)
      (setOutBuf ((s.outBuf ++ bytes.take d.taken).drop d.shifted) t))

/-- `wait(ms)` (R8, R92): at least the characters that fit in `ms` milliseconds leave the buffer (R100).
The first component says whether the wait ended. -/
def waitCall (ms : Nat) (s : State) : Bool × State :=
  let d := drawAt s 0
  let t := record (.wait ms) (consume s)
  match d.outcome with
  | .never => (false, hang (.wait ms) (setOutBuf (s.outBuf.drop d.shifted) t))
  | .ok => (true, setOutBuf (s.outBuf.drop (max d.shifted (charactersIn ms s.baud))) t)
  | .fail => (true, setOutBuf (s.outBuf.drop (max d.shifted (charactersIn ms s.baud))) t)

/-! ### The transmit-enable sequence -/

/-- `fail_path` (41_link.md §1): one attempt to lower TE unless the release itself failed, then FAILED and
TRANSPORT_ERROR. A failed release has already made TE a drawn value (R20). -/
def failPath (releaseFailed : Bool) (s : State) : State :=
  if releaseFailed then raise .transportError (setOpState .failed s)
  else
    match signalCall false s with
    | (.pending, t) => t
    | (.ok, t) => raise .transportError (setOpState .failed t)
    | (.fail, t) => raise .transportError (setOpState .failed t)

/-- The lead wait, when `P_TE_LEAD_MS` > 0 (R60, R101). -/
def leadWait (s : State) : Bool × State :=
  if s.params.teLeadMs = 0 then (true, s) else waitCall s.params.teLeadMs (setPhase .lead s)

/-- The end of `transmit`: lower TE and respond (R60). -/
def releaseTe (s : State) : State :=
  match signalCall false (setPhase .release s) with
  | (.pending, t) => t
  | (.fail, t) => failPath true t
  | (.ok, t) => respond [] (setPhase .idle t)

/-- The settle interval, then the release (R60, R62). -/
def holdTe (s : State) : State :=
  match waitCall s.settle.toNat (setPhase .hold s) with
  | (false, t) => t
  | (true, t) => releaseTe t

/-- The write of the frame, then the settle interval (R60). -/
def writeFrame (f : List Byte) (s : State) : State :=
  match writeCall f (setPhase .write s) with
  | (.pending, t) => t
  | (.fail _, t) => failPath false t
  | (.ok, t) => holdTe t

/-- `transmit(f)` (R60): raise TE, lead wait, write, settle, lower TE. -/
def transmit (f : List Byte) (s : State) : State :=
  match signalCall true (setPhase .assert s) with
  | (.pending, t) => t
  | (.fail, t) => failPath false t
  | (.ok, t) =>
    match leadWait t with
    | (false, u) => u
    | (true, u) => writeFrame f u

/-! ### INIT's parts -/

/-- INIT closes an open handle: HANDLE <- none, STATE <- UNINIT (R59). -/
def closeOpenHandle (s : State) : Bool × State :=
  match s.handle with
  | none => (true, s)
  | some h =>
    match closeCall h s with
    | (false, t) => (false, t)
    | (true, t) => (true, setOpState .uninit (setHandle none t))

/-- INIT with a handle just opened: drive TE to 0; on success write the configuration and become READY, on
failure close the handle again (R59). -/
def adoptHandle (h : Handle) (addr : Byte) (baud : Word) (flags : Byte) (settle : Half) (s : State) : State :=
  match signalCall false s with
  | (.pending, t) => t
  | (.fail, t) =>
    match closeCall h t with
    | (false, u) => u
    | (true, u) => raise .transportError u
  | (.ok, t) => respond [] (setOpState .ready (setConfig addr baud flags settle (setHandle (some h) t)))

/-- INIT with no handle open: `configure`, then the new handle (R59). -/
def configureLink (addr : Byte) (baud : Word) (flags : Byte) (settle : Half) (s : State) : State :=
  match configureCall baud (exclusiveFlag flags) s with
  | (.pending, t) => t
  | (.fail, t) => raise .transportError t
  | (.ok h, t) => adoptHandle h addr baud flags settle t

/-- INIT after its operand checks (R59). -/
def openTransport (addr : Byte) (baud : Word) (flags : Byte) (settle : Half) (s : State) : State :=
  match closeOpenHandle s with
  | (false, t) => t
  | (true, t) => configureLink addr baud flags settle t

/-! ### SEND's core, shared with the command calls -/

/-- SEND (R64): the length check, then the state check, then the telegram for ADDR. -/
def sendRequest (code subcode : Byte) (data : List Byte) (s : State) : State :=
  if exceedsPayload s.params (sendPayload code subcode data).length then raise .encodingError s
  else if s.opState ≠ .ready then raise .notReady s
  else transmit (telegram s.addr (sendPayload code subcode data)) s

/-- A command call: its encoder's data in one SEND, or ENCODING_ERROR on the host side and no request
(R49, R68). -/
def runCommand (code : Byte) (data : Option (List Byte)) (s : State) : State :=
  match data with
  | none => raiseOnHost s
  | some d => sendRequest code 0x00#8 d s

/-! ### Reset -/

/-- Reset (R96, R97): the registers, HANDLE, TRACE and the output buffer take their reset values with no
transport call; the level of the TE line is drawn. The parameters, the host's side and the environment's
draws go on (log 11). -/
def resetTfc (s : State) : State :=
  { State.reset with
      params := s.params
      teLine := (drawAt s 0).line
      inputs := s.inputs
      hostLog := s.hostLog
      draws := s.draws.tail
      drawn := s.drawn + 1
      gaps := s.gaps
      gapsTaken := s.gapsTaken }

/-- A reset ends the request in progress, whatever it is and however far it has come, with no response
(R97): the registers, TRACE and the output buffer it may have written are all reset (log 11). -/
def resetDuring (s : State) : State := resetTfc (tellHost .requestLost s)

/-- The first reset presented ends a request whose transport call has not returned (R97). -/
def resetHung (s : State) : State := resetDuring (setInputs (s.inputs.erase .reset) s)

end Sys2Proof.Machine
end

