-- ==== Sys2Proof/Machine/Commands.lean ====
section
/-! DEFINITION. The command calls (45_command_payloads.md R71 to R76): the encoder runs on the host side and
issues one SEND, or raises ENCODING_ERROR there (R68). Commands that a device may ignore are sent like every
other (R77). -/

namespace Sys2Proof.Machine

/-- SIMPLE_TEXT (R71). -/
def execSimpleText (page row col : Int) (t : Text) (align : Align) (s : State) :
    Host.Outcome State Fault Refusal :=
  .next (runCommand codeSimpleText (simpleTextData s.params page row col t align) s)

/-- TEXT (R72). -/
def execText (page row colStart colEnd : Int) (t : Text) (align : Align) (s : State) :
    Host.Outcome State Fault Refusal :=
  .next (runCommand codeText (textData s.params page row colStart colEnd t align) s)

/-- SET_PAGES (R73). -/
def execSetPages (pairs : List (Int × Int)) (s : State) : Host.Outcome State Fault Refusal :=
  .next (runCommand codeSetPages (setPagesData pairs) s)

/-- SET_PAGE (R74). -/
def execSetPage (page : Int) (s : State) : Host.Outcome State Fault Refusal :=
  .next (runCommand codeSetPages (setPageData page) s)

/-- SET_CLOCK (R75). -/
def execSetClock (year month day hour minute second : Int) (s : State) :
    Host.Outcome State Fault Refusal :=
  .next (runCommand codeSetClock (setClockData s.params year month day hour minute second) s)

/-- SET_CLOCK_DISPLAY (R76). -/
def execSetClockDisplay (dateFormat : Name) (dateRow dateColStart dateColEnd : Int)
    (timeFormat : Name) (timeRow timeColStart timeColEnd : Int) (s : State) :
    Host.Outcome State Fault Refusal :=
  .next (runCommand codeSetClockDisplay
    (setClockDisplayData s.params dateFormat dateRow dateColStart dateColEnd
      timeFormat timeRow timeColStart timeColEnd) s)

/-- A command call that a reset meets: its request is lost, or, where its encoder refused, there was no request
and the reset falls between requests (R68, 70_reset_and_hazards.md R97; log 11). -/
def resetDuringCommand (c : Command) (s : State) : State :=
  match expand s.params c.toInstr with
  | some _ => resetDuring s
  | none => resetTfc (raiseOnHost s)

end Sys2Proof.Machine
end

