-- ==== Sys2Proof/Machine/Framing.lean ====
section
/-! DEFINITION. The framing requests CKSUM, ESC, UNESC and BUILD (40_framing.md R51 to R54). They are pure:
accepted in every STATE, no transport call, LASTERR the only register written (20_memory.md R32). -/

namespace Sys2Proof.Machine

/-- A result with its 16-bit length in front (30_encoding.md R41). -/
def respondSequence (r : List Byte) (s : State) : State := respond (be16 r.length ++ r) s

/-- CKSUM (R51). -/
def execCksum (data : List Byte) (s : State) : Host.Outcome State Fault Refusal :=
  .next (respond [checksum data] s)

/-- ESC (R52). -/
def execEsc (data : List Byte) (s : State) : Host.Outcome State Fault Refusal :=
  .next (if exceedsPayload s.params data.length then raise .encodingError s
    else respondSequence (escape data) s)

/-- UNESC (R53). -/
def execUnesc (data : List Byte) (s : State) : Host.Outcome State Fault Refusal :=
  .next (match unescape data with
    | none => raise .decodeError s
    | some d => respondSequence d s)

/-- BUILD (R54): the address check comes first. -/
def execBuild (addr : Byte) (payload : List Byte) (s : State) : Host.Outcome State Fault Refusal :=
  .next (if !legalAddress addr then raise .encodingError s
    else if exceedsPayload s.params payload.length then raise .encodingError s
    else respondSequence (telegram addr payload) s)

end Sys2Proof.Machine
end

