-- ==== Sys2Proof/Machine/Illegal.lean ====
section
/-! DEFINITION. The illegal rows of the opcode map, and a request that is not well-formed: ILLEGAL_REQUEST
(30_encoding.md R39, R40; 60_exceptions.md R81). -/

namespace Sys2Proof.Machine

/-- Opcode 0x00 (R81). -/
def execIllegalZero (_tail : List Byte) (s : State) : Host.Outcome State Fault Refusal :=
  .next (raise .illegalRequest s)

/-- Opcodes 0x09 to 0xFF (R81). -/
def execIllegalOpcode (_opcode : Byte) (_tail : List Byte) (s : State) : Host.Outcome State Fault Refusal :=
  .next (raise .illegalRequest s)

/-- A legal opcode with the wrong length, or no byte at all (R39). -/
def execMalformed (s : State) : Host.Outcome State Fault Refusal := .next (raise .illegalRequest s)

end Sys2Proof.Machine
end

