-- ==== Sys2Proof/Machine/Link.lean ====
section
/-! DEFINITION. The link requests INIT, XMIT, SEND and STATUS (41_link.md R59, R60, R64, R65). -/

namespace Sys2Proof.Machine

/-- INIT (R59): the four operand checks in order, then the transport. -/
def execInit (addr : Byte) (baud : Word) (flags : Byte) (settle : Half) (s : State) :
    Host.Outcome State Fault Refusal :=
  .next (if !legalAddress addr then raise .encodingError s
    else if baud = 0#32 then raise .encodingError s
    else if reservedFlags flags then raise .encodingError s
    else if settle.toNat < 100 then raise .encodingError s
    else openTransport addr baud flags settle s)

/-- XMIT (R60): any byte sequence, in READY. -/
def execXmit (frame : List Byte) (s : State) : Host.Outcome State Fault Refusal :=
  .next (if s.opState ≠ .ready then raise .notReady s else transmit frame s)

/-- SEND (R64). -/
def execSend (code subcode : Byte) (data : List Byte) (s : State) : Host.Outcome State Fault Refusal :=
  .next (sendRequest code subcode data s)

/-- The STATUS response (R65, 30_encoding.md R41). -/
def statusResponse (s : State) : List Byte :=
  [statusCode .ok, statreg s, s.addr] ++ be32 s.baud.toNat ++ [s.ctrl] ++ be16 s.settle.toNat
    ++ [statusCode s.lastErr]

/-- STATUS (R65): LASTERR is not written (10_state.md R22). -/
def execStatus (s : State) : Host.Outcome State Fault Refusal := .next (emit (statusResponse s) s)

end Sys2Proof.Machine
end

