-- ==== Sys2Proof/Machine/Dispatch.lean ====
section
/-! DEFINITION. One arm per instruction. -/

namespace Sys2Proof.Machine

def exec (i : Instr) (s : State) : Host.Outcome State Fault Refusal :=
  match i with
  | .init addr baud flags settle => Sys2Proof.Machine.execInit addr baud flags settle s
  | .cksum data => Sys2Proof.Machine.execCksum data s
  | .esc data => Sys2Proof.Machine.execEsc data s
  | .unesc data => Sys2Proof.Machine.execUnesc data s
  | .build addr payload => Sys2Proof.Machine.execBuild addr payload s
  | .xmit frame => Sys2Proof.Machine.execXmit frame s
  | .send code subcode data => Sys2Proof.Machine.execSend code subcode data s
  | .status => Sys2Proof.Machine.execStatus s
  | .illegalZero tail => Sys2Proof.Machine.execIllegalZero tail s
  | .illegalOpcode opcode tail => Sys2Proof.Machine.execIllegalOpcode opcode tail s
  | .simpleText page row col t align => Sys2Proof.Machine.execSimpleText page row col t align s
  | .text page row colStart colEnd t align => Sys2Proof.Machine.execText page row colStart colEnd t align s
  | .setPages pairs => Sys2Proof.Machine.execSetPages pairs s
  | .setPage page => Sys2Proof.Machine.execSetPage page s
  | .setClock year month day hour minute second => Sys2Proof.Machine.execSetClock year month day hour minute second s
  | .setClockDisplay df dr dcs dce tf tr tcs tce => Sys2Proof.Machine.execSetClockDisplay df dr dcs dce tf tr tcs tce s

end Sys2Proof.Machine
end

