-- ==== Sys2Proof/Machine/Step.lean ====
section
/-! DEFINITION. One step of the TFC: it takes the next thing the host presents and finishes it
(20_memory.md R33, 41_link.md R66). -/

namespace Sys2Proof.Machine

/-- A whole request at the port (30_encoding.md R35, R39). -/
def serveRequest (q : List Byte) (s : State) : Host.Outcome State Fault Refusal :=
  match decode q with
  | .ok i => exec i s
  | .error _ => execMalformed s

/-- One step. A TFC that is busy for ever holds every request; only a reset frees it (R66, R97; log 3). With
nothing presented it waits (R96; log 21). Before a request, and while it waits, the transport may go on shifting
bytes out (R100; log 24); a reset empties the buffer (R96). -/
def step (s : State) : Host.Outcome State Fault Refusal :=
  match s.waitingOn with
  | some c => if s.inputs.contains .reset then .next (resetHung s) else .fault (.hung c)
  | none =>
    match s.inputs with
    | [] => .next (passTime s)
    | .reset :: rest => .next (resetTfc (setInputs rest s))
    | .request q :: rest => serveRequest q (setInputs rest (passTime s))
    | .command c :: rest => exec c.toInstr (setInputs rest (passTime s))
    | .requestCut _ :: rest => .next (resetDuring (setInputs rest s))
    | .commandCut c :: rest => .next (resetDuringCommand c (setInputs rest s))

/-- The next thing presented is a row of the opcode table, and the TFC is free to take it (log 1, 15). -/
def State.withFetchWord (s : State) (nbits w : Nat) : State :=
  { s with waitingOn := none, phase := .idle, inputs := tableItem nbits w :: s.inputs }

end Sys2Proof.Machine
end

