-- ==== Sys2Proof/Safety.lean ====
section
/-! DEFINITION. What counts as a safe state and a safe trace: the invariant of the TFC, the pulse discipline
of the transmit-enable line on TRACE (20_memory.md R33, 41_link.md R61), the end of a run
(70_reset_and_hazards.md R105), and the vocabulary the statements share. -/

namespace Sys2Proof.Safety

open Sys2Proof.Machine

/-- Where a trace stands in the transmit-enable discipline. -/
inductive Pulse where
  /-- No pulse is open. -/
  | outside
  /-- TE was raised, nothing is written yet. -/
  | raised
  /-- The frame was written, the settle wait is still to come. -/
  | written
  /-- The settle wait has been made; TE is to be lowered next. -/
  | settled
  /-- A call of the pulse failed; TE is to be lowered next. -/
  | recovering
  /-- A transport call never returned; nothing may follow. -/
  | stuck
  deriving DecidableEq, Repr

/-- Lowering TE, which ends a pulse. -/
def lowerTe : Event → Option Pulse
  | .signal false .ok => some .outside
  | .signal false .fail => some .outside
  | .signal false .pending => some .stuck
  | _ => none

/-- What one event does to the discipline; none is a breach: a write outside a pulse, a pulse inside a pulse,
TE lowered after a good write without a settle wait of at least 100 ms (R16, R33, R61). -/
def pulseStep : Pulse → Event → Option Pulse
  | .outside, .configure _ _ _ _ _ .pending => some .stuck
  | .outside, .configure _ _ _ _ _ _ => some .outside
  | .outside, .close _ => some .outside
  | .outside, .signal true .ok => some .raised
  | .outside, .signal true .fail => some .recovering
  | .outside, .signal true .pending => some .stuck
  | .outside, e => lowerTe e
  | .raised, .wait _ => some .raised
  | .raised, .write _ .ok => some .written
  | .raised, .write _ (.fail _) => some .recovering
  | .raised, .write _ .pending => some .stuck
  | .raised, _ => none
  | .written, .wait ms => if 100 ≤ ms then some .settled else none
  | .written, _ => none
  | .settled, e => lowerTe e
  | .recovering, e => lowerTe e
  | .stuck, _ => none

/-- Where a whole trace stands, from `p`; none if it breaches the discipline. -/
def pulseFrom : Pulse → List Event → Option Pulse
  | p, [] => some p
  | p, e :: t =>
    match pulseStep p e with
    | some p' => pulseFrom p' t
    | none => none

/-- Where a trace stands after reset. -/
def pulseAfter (trace : List Event) : Option Pulse := pulseFrom .outside trace

/-- The invariant of the TFC. -/
structure Inv (s : State) : Prop where
  /-- PHASE is IDLE at the end of every request (10_state.md R19). -/
  idlePhase  : s.waitingOn = none → s.phase = .idle
  /-- HANDLE is none exactly in UNINIT (R18, R23). -/
  handleOpen : s.opState = .uninit ↔ s.handle = none
  /-- 1 ≤ ADDR ≤ 127 outside UNINIT (R13). -/
  addrLegal  : s.opState ≠ .uninit → 1 ≤ s.addr.toNat
  /-- ADDR[7] reads as 0 (R12). -/
  addrTop    : s.addr.toNat ≤ 127
  /-- CTRL[7:1] read as 0 (R15). -/
  ctrlBits   : s.ctrl &&& 0xFE#8 = 0x00#8
  /-- SETTLE is legal (R16). -/
  settleMin  : 100 ≤ s.settle.toNat
  /-- BAUD is legal (R14). -/
  baudPos    : s.baud ≠ 0#32
  /-- In READY, with no call outstanding, TE and its line are low (41_link.md R61). -/
  quietTe    : s.opState = .ready → s.waitingOn = none → s.te = false ∧ s.teLine = false
  /-- TRACE keeps the discipline (R33). -/
  traceKept  : (pulseAfter s.trace).isSome
  /-- With no call outstanding no pulse is open (R33, R61). -/
  pulseOver  : s.waitingOn = none → pulseAfter s.trace = some .outside

/-- A run has ended: nothing is left to take, no call is outstanding, PHASE is IDLE (R105). -/
def runEnded (s : State) : Prop := s.inputs = [] ∧ s.waitingOn = none ∧ s.phase = .idle

/-- The environment answers ok to the next `k` transport calls and waits. -/
abbrev answersOk (s : State) (k : Nat) : Prop := ∀ n, n < k → (drawAt s n).outcome = .ok

/-- The lead wait's part of a pulse: one call when `P_TE_LEAD_MS` > 0, else none (41_link.md R61). -/
def leadCalls (s : State) : Nat := if s.params.teLeadMs = 0 then 0 else 1

/-- The events of the lead wait (R61). -/
def leadEvents (s : State) : List Event :=
  if s.params.teLeadMs = 0 then [] else [.wait s.params.teLeadMs]

/-- The state with the answered request's traces in it: `k` environment choices used, the events `es`
appended, the output buffer `b`, TE and its line at the levels given, status `e` in LASTERR, PHASE IDLE and
the response `r` sent. -/
def served (s : State) (k : Nat) (es : List Event) (b : List Byte) (te line : Bool) (e : Status)
    (r : List Byte) : State :=
  { s with
      te := te
      teLine := line
      lastErr := e
      phase := .idle
      trace := s.trace ++ es
      outBuf := b
      hostLog := s.hostLog ++ [.response r]
      draws := s.draws.drop k
      drawn := s.drawn + k }

/-- The state a hang leaves: `k` environment choices used, the events `es` appended, the output buffer `b`, TE
and its line at the levels given, PHASE `p`, the call `c` outstanding; no response, LASTERR as it was. -/
def busy (s : State) (k : Nat) (es : List Event) (b : List Byte) (te line : Bool) (p : Phase)
    (c : PendingCall) : State :=
  { s with
      te := te
      teLine := line
      phase := p
      trace := s.trace ++ es
      outBuf := b
      waitingOn := some c
      draws := s.draws.drop k
      drawn := s.drawn + k }

/-- The state after one good pulse that wrote the frame `f`: exactly the events of R61, TE low, status OK. -/
def pulseDone (s : State) (f b : List Byte) : State :=
  served s (leadCalls s + 4)
    ([.signal true .ok] ++ leadEvents s ++ [.write f .ok, .wait s.settle.toNat, .signal false .ok])
    b false false .ok [0x00#8]

/-- The state in which the first thing presented is served: it is taken from the inputs, and the gap before it has
let bytes out of the output buffer (70_reset_and_hazards.md R100; log 1, 24). -/
def whenServed (s : State) (rest : List HostItem) : State :=
  { s with
      inputs := rest
      outBuf := s.outBuf.drop (nextGap s)
      gaps := s.gaps.tail
      gapsTaken := s.gapsTaken + 1 }

/-- The state after a request that touched nothing but LASTERR (20_memory.md R32). -/
def answered (s : State) (e : Status) (r : List Byte) : State :=
  { s with lastErr := e, hostLog := s.hostLog ++ [.response r] }

/-- The state after a command encoder raised ENCODING_ERROR on the host side: the TFC saw nothing
(45_command_payloads.md R68). -/
def refusedOnHost (s : State) : State := { s with hostLog := s.hostLog ++ [.encodingError] }

/-- The ranges of a single-byte field, a 16-bit field (R68) and a clock field (R75). -/
abbrev inByte (v : Int) : Prop := 0 ≤ v ∧ v ≤ 255
abbrev inHalf (v : Int) : Prop := 0 ≤ v ∧ v ≤ 65535
abbrev inClock (v : Int) : Prop := 0 ≤ v ∧ v ≤ 99

/-- DLE-stuffing as the source words it: each special byte becomes the pair DLE and itself (40_framing.md
R52). -/
def stuffed (b : List Byte) : List Byte :=
  b.flatMap fun x => if x ∈ [0x02#8, 0x03#8, 0x04#8, 0x05#8, 0x10#8] then [0x10#8, x] else [x]

/-- A sequence with its 16-bit length in front, high byte first (30_encoding.md R36). -/
def counted (b : List Byte) : List Byte :=
  [BitVec.ofNat 8 (b.length / 256), BitVec.ofNat 8 (b.length % 256)] ++ b

/-- How many bytes of `b` are special (R52). -/
def specials (b : List Byte) : Nat :=
  b.countP fun x => x ∈ [0x02#8, 0x03#8, 0x04#8, 0x05#8, 0x10#8]

/-- The checksum as arithmetic: the sum modulo 128, plus 128 (R51, R58). -/
def checksumOf (b : List Byte) : Byte := BitVec.ofNat 8 ((b.map BitVec.toNat).sum % 128 + 128)

/-- The telegram, byte for byte (30_encoding.md R43). -/
def telegramOf (a : Byte) (p : List Byte) : List Byte :=
  [0x04#8, 0x80#8 ||| a, 0x02#8] ++ stuffed p ++ [0x03#8, checksumOf (p ++ [0x03#8])]

/-- INIT's closing of an open handle: one call when HANDLE is not none, else none (41_link.md R59). -/
def closeCalls (s : State) : Nat := if s.handle = none then 0 else 1

/-- The event of that call (R59). -/
def closeEvents (s : State) : List Event :=
  match s.handle with
  | none => []
  | some h => [.close h]

/-- The answer of a release attempt that returned, the TE bit it leaves and the level of the line (R20,
41_link.md §1, R63). -/
def releaseAnswer (d : Draw) : SignalAnswer := if d.outcome = .ok then .ok else .fail
def releaseBit (d : Draw) : Bool := if d.outcome = .ok then false else d.level
def releaseLine (d : Draw) : Bool := if d.outcome = .ok then false else d.line

/-- The total length of a request by the table of 30_encoding.md R38; none for an illegal opcode or a
request that ends before its length field does (R39). -/
def formatLength (q : List Byte) : Option Nat :=
  let field (i : Nat) : Nat := (q.getD i 0x00#8).toNat * 256 + (q.getD (i + 1) 0x00#8).toNat
  match q with
  | [] => none
  | opcode :: _ =>
    if opcode = 0x01#8 then some 9
    else if opcode ∈ [0x02#8, 0x03#8, 0x04#8, 0x06#8] then
      if 3 ≤ q.length then some (3 + field 1) else none
    else if opcode = 0x05#8 then if 4 ≤ q.length then some (4 + field 2) else none
    else if opcode = 0x07#8 then if 5 ≤ q.length then some (5 + field 3) else none
    else if opcode = 0x08#8 then some 1
    else none

/-- The rows (illegal) (R40). -/
def isIllegal : Instr → Bool
  | .illegalZero _ => true
  | .illegalOpcode _ _ => true
  | .cksum _ => false
  | .esc _ => false
  | .unesc _ => false
  | .build _ _ => false
  | .init _ _ _ _ => false
  | .xmit _ => false
  | .send _ _ _ => false
  | .status => false
  | .simpleText _ _ _ _ _ => false
  | .text _ _ _ _ _ _ => false
  | .setPages _ => false
  | .setPage _ => false
  | .setClock _ _ _ _ _ _ => false
  | .setClockDisplay _ _ _ _ _ _ _ _ => false

/-- The pure requests (20_memory.md R32). -/
def isPure : Instr → Bool
  | .cksum _ => true
  | .esc _ => true
  | .unesc _ => true
  | .build _ _ => true
  | .init _ _ _ _ => false
  | .xmit _ => false
  | .send _ _ _ => false
  | .status => false
  | .illegalZero _ => false
  | .illegalOpcode _ _ => false
  | .simpleText _ _ _ _ _ => false
  | .text _ _ _ _ _ _ => false
  | .setPages _ => false
  | .setPage _ => false
  | .setClock _ _ _ _ _ _ => false
  | .setClockDisplay _ _ _ _ _ _ _ _ => false

/-- The pseudo-instructions, whose encoders run on the host side (45_command_payloads.md R68). -/
def isCommand : Instr → Bool
  | .simpleText _ _ _ _ _ => true
  | .text _ _ _ _ _ _ => true
  | .setPages _ => true
  | .setPage _ => true
  | .setClock _ _ _ _ _ _ => true
  | .setClockDisplay _ _ _ _ _ _ _ _ => true
  | .cksum _ => false
  | .esc _ => false
  | .unesc _ => false
  | .build _ _ => false
  | .init _ _ _ _ => false
  | .xmit _ => false
  | .send _ _ _ => false
  | .status => false
  | .illegalZero _ => false
  | .illegalOpcode _ _ => false

/-- The instructions that run the transmit-enable sequence (41_link.md R60, R64). -/
def isTransmit : Instr → Bool
  | .xmit _ => true
  | .send _ _ _ => true
  | .simpleText _ _ _ _ _ => true
  | .text _ _ _ _ _ _ => true
  | .setPages _ => true
  | .setPage _ => true
  | .setClock _ _ _ _ _ _ => true
  | .setClockDisplay _ _ _ _ _ _ _ _ => true
  | .cksum _ => false
  | .esc _ => false
  | .unesc _ => false
  | .build _ _ => false
  | .init _ _ _ _ => false
  | .status => false
  | .illegalZero _ => false
  | .illegalOpcode _ _ => false

/-- INIT. -/
def isInit : Instr → Bool
  | .init _ _ _ _ => true
  | .cksum _ => false
  | .esc _ => false
  | .unesc _ => false
  | .build _ _ => false
  | .xmit _ => false
  | .send _ _ _ => false
  | .status => false
  | .illegalZero _ => false
  | .illegalOpcode _ _ => false
  | .simpleText _ _ _ _ _ => false
  | .text _ _ _ _ _ _ => false
  | .setPages _ => false
  | .setPage _ => false
  | .setClock _ _ _ _ _ _ => false
  | .setClockDisplay _ _ _ _ _ _ _ _ => false

end Sys2Proof.Safety
end

