-- ==== Sys2Proof/Certificates/Slice0/Obligations.lean ====
section
/-! DEFINITION. The statements about the TFC, each with the rule of the spec it formalises. Byte values are
written out where the spec writes them; the model's own functions stand where the statement is about them. -/

open Sys2Proof Sys2Proof.Machine Sys2Proof.Safety

/-! ### Encoding and decoding -/

/-- Decoding an encoded well-formed instruction gives it back, every operand at every value (30_encoding.md
R38); a pseudo-instruction's bytes are those of the SEND it expands to (R49). -/
def Obligations.EncodedInstructionDecodesBack : Prop :=
  ∀ (p : Params) (i : Instr), WellFormed i = true →
    (isCommand i = false → encode p i = some (encodeRequest i) ∧ decode (encodeRequest i) = .ok i) ∧
    (∀ j, expand p i = some j →
      encode p i = some (encodeRequest j) ∧ decode (encodeRequest j) = .ok j)

/-- The decoder accepts no byte sequence but the encoding of what it answers (R38, R39). -/
def Obligations.DecodedRequestEncodesBack : Prop :=
  ∀ (q : List Byte) (i : Instr), decode q = .ok i → WellFormed i = true ∧ encodeRequest i = q

/-- The decoder accepts a request of a legal opcode exactly when its length is the total length of R38. -/
def Obligations.RequestFormatDecidesAcceptance : Prop :=
  ∀ q : List Byte, (∃ i, decode q = .ok i ∧ isIllegal i = false) ↔ formatLength q = some q.length

/-- A request's length is found from its own bytes, whatever follows it (R50). -/
def Obligations.RequestLengthFoundFromFirstBytes : Prop :=
  ∀ (q : List Byte) (i : Instr) (rest : List Byte), decode q = .ok i → isIllegal i = false →
    requestLength (q ++ rest) = some q.length

/-- Requests of every format, written out from R38, decode to what they stand for. -/
def Obligations.WrittenOutRequestsDecode : Prop :=
  decode [0x01#8, 0x03#8, 0x00#8, 0x00#8, 0x4B#8, 0x00#8, 0x01#8, 0x00#8, 0x96#8]
      = .ok (.init 3#8 19200#32 1#8 150#16) ∧
  decode [0x02#8, 0x00#8, 0x01#8, 0x7D#8] = .ok (.cksum [0x7D#8]) ∧
  decode [0x03#8, 0x00#8, 0x01#8, 0x10#8] = .ok (.esc [0x10#8]) ∧
  decode [0x04#8, 0x00#8, 0x02#8, 0x10#8, 0x10#8] = .ok (.unesc [0x10#8, 0x10#8]) ∧
  decode [0x05#8, 0x7F#8, 0x00#8, 0x01#8, 0x10#8] = .ok (.build 127#8 [0x10#8]) ∧
  decode [0x06#8, 0x00#8, 0x01#8, 0x01#8] = .ok (.xmit [0x01#8]) ∧
  decode [0x07#8, 0x24#8, 0x00#8, 0x00#8, 0x03#8, 0x00#8, 0x05#8, 0xFF#8]
      = .ok (.send 0x24#8 0x00#8 [0x00#8, 0x05#8, 0xFF#8]) ∧
  decode [0x08#8] = .ok .status ∧
  decode [0x00#8] = .ok (.illegalZero []) ∧
  decode [0xFF#8, 0x01#8] = .ok (.illegalOpcode 0xFF#8 [0x01#8])

/-! ### The step -/

/-- When the next thing presented is a request whose bytes decode to i, the step is exec of i at the state
whose inputs have moved past it and whose output buffer has lost what the gap before it let out (20_memory.md R33,
30_encoding.md R35, 70_reset_and_hazards.md R100; log 1, 24). -/
def Obligations.StepRunsDecodedRequest : Prop :=
  ∀ (s : State) (q : List Byte) (i : Instr) (rest : List HostItem),
    s.waitingOn = none → s.inputs = .request q :: rest → decode q = .ok i →
    step s = exec i (whenServed s rest)

/-- When the next thing presented is a command call, the step is exec of its pseudo-instruction, in that same state
(R49; log 14, 24). -/
def Obligations.StepRunsCommandCall : Prop :=
  ∀ (s : State) (c : Command) (rest : List HostItem),
    s.waitingOn = none → s.inputs = .command c :: rest →
    step s = exec c.toInstr (whenServed s rest)

/-- A request with an illegal opcode, a wrong length or no byte at all gets [03] and writes nothing but
LASTERR (R39, 60_exceptions.md R81); and so does the step that takes it, in the state the inputs (log 1) and the gap
before it (log 24) give. -/
def Obligations.MalformedRequestGetsIllegalRequest : Prop :=
  ∀ (s : State) (q : List Byte), s.phase = .idle → formatLength q ≠ some q.length →
    serveRequest q s = .next (answered s .illegalRequest [0x03#8]) ∧
    ∀ rest, s.waitingOn = none → s.inputs = .request q :: rest →
      step s = .next (answered (whenServed s rest) .illegalRequest [0x03#8])

/-- The two rows (illegal) of the opcode map (R40, R81). -/
def Obligations.IllegalRowsGetIllegalRequest : Prop :=
  ∀ (s : State) (opcode : Byte) (tail : List Byte), s.phase = .idle →
    exec (.illegalZero tail) s = .next (answered s .illegalRequest [0x03#8]) ∧
    exec (.illegalOpcode opcode tail) s = .next (answered s .illegalRequest [0x03#8])

/-- With nothing presented the TFC waits: no register, no response and no event of TRACE, while the transport may let
bytes out of its output buffer (70_reset_and_hazards.md R96, R100; that waiting is a step is log 21, the bytes log
24). -/
def Obligations.IdleStepWaits : Prop :=
  ∀ s : State, s.waitingOn = none → s.inputs = [] → step s = .next (whenServed s [])

/-! ### The framing requests -/

/-- CKSUM, in every state and on every sequence: (sum mod 256) with bit 7 set, which is the sum mod 128, plus 128
(40_framing.md R51, R58); the request is 02, the length and the bytes. -/
def Obligations.CksumAnswersForcedSum : Prop :=
  ∀ (s : State) (b : List Byte),
    (b.length ≤ 65535 → decode ([0x02#8] ++ counted b) = .ok (.cksum b)) ∧
    exec (.cksum b) s = .next (answered s .ok [0x00#8, checksumOf b])

/-- ESC: up to P_MAX_PAYLOAD bytes are stuffed, a longer sequence gets ENCODING_ERROR (R52). -/
def Obligations.EscStuffsOrRefuses : Prop :=
  ∀ (s : State) (b : List Byte), s.phase = .idle →
    (b.length ≤ 65535 → decode ([0x03#8] ++ counted b) = .ok (.esc b)) ∧
    (b.length ≤ s.params.maxPayload →
      exec (.esc b) s = .next (answered s .ok ([0x00#8] ++ counted (stuffed b)))) ∧
    (s.params.maxPayload < b.length → exec (.esc b) s = .next (answered s .encodingError [0x01#8]))

/-- UNESC gives back every stuffed sequence and answers DECODE_ERROR to every other (R53). -/
def Obligations.UnescInvertsEscOrRefuses : Prop :=
  ∀ (s : State) (c : List Byte), s.phase = .idle →
    (c.length ≤ 65535 → decode ([0x04#8] ++ counted c) = .ok (.unesc c)) ∧
    (∀ b, stuffed b = c → exec (.unesc c) s = .next (answered s .ok ([0x00#8] ++ counted b))) ∧
    ((∀ b, stuffed b ≠ c) → exec (.unesc c) s = .next (answered s .decodeError [0x05#8]))

/-- BUILD: the telegram of R43 for an address 1 to 127 and a payload within P_MAX_PAYLOAD, else
ENCODING_ERROR (R54). -/
def Obligations.BuildAssemblesOrRefuses : Prop :=
  ∀ (s : State) (a : Byte) (p : List Byte), s.phase = .idle →
    (p.length ≤ 65535 → decode ([0x05#8, a] ++ counted p) = .ok (.build a p)) ∧
    (1 ≤ a.toNat → a.toNat ≤ 127 → p.length ≤ s.params.maxPayload →
      exec (.build a p) s = .next (answered s .ok ([0x00#8] ++ counted (telegramOf a p)))) ∧
    ((a.toNat = 0 ∨ 127 < a.toNat ∨ s.params.maxPayload < p.length) →
      exec (.build a p) s = .next (answered s .encodingError [0x01#8]))

/-- The checksum does not depend on the order of the bytes, nor on appended 00 bytes, and is the sum modulo
128 plus 128; the address byte is the address plus 128 (R58). -/
def Obligations.ChecksumIgnoresOrderAndZeros : Prop :=
  (∀ b c : List Byte, b.Perm c → checksum b = checksum c) ∧
  (∀ b : List Byte, checksum (b ++ [0x00#8]) = checksum b) ∧
  (∀ b : List Byte, (checksum b).toNat = (b.map BitVec.toNat).sum % 128 + 128) ∧
  (∀ (a : Byte) (p : List Byte), 1 ≤ a.toNat → a.toNat ≤ 127 →
    ∃ x, (telegram a p)[1]? = some x ∧ x.toNat = a.toNat + 128)

/-- The length of a telegram (30_encoding.md R44). -/
def Obligations.TelegramLengthLaw : Prop :=
  ∀ (a : Byte) (p : List Byte),
    (telegram a p).length = p.length + specials p + 5 ∧
    p.length + 5 ≤ (telegram a p).length ∧ (telegram a p).length ≤ 2 * p.length + 5 ∧
    (∀ m : Params, p.length ≤ m.maxPayload → (telegram a p).length ≤ 65535)

/-- In a telegram SOT, STX and ETX stand at indices 0, 2 and length - 2, and any other byte 02 to 05 has a byte 10
right before it; the address byte is 81 to FF and the checksum byte 80 to FF, so neither is ever in ESCSET. This is
less than 40_framing.md R57, which says that the 10 before is an inserted one: here any 10 will do. -/
def Obligations.BareControlBytesFrameTheTelegram : Prop :=
  ∀ (a : Byte) (p : List Byte), 1 ≤ a.toNat → a.toNat ≤ 127 →
    ((telegram a p)[0]? = some 0x04#8 ∧ (telegram a p)[2]? = some 0x02#8 ∧
      (telegram a p)[(telegram a p).length - 2]? = some 0x03#8) ∧
    (∀ i x, (telegram a p)[i]? = some x → x ∈ [0x02#8, 0x03#8, 0x04#8, 0x05#8] →
      i = 0 ∨ i = 2 ∨ i + 2 = (telegram a p).length ∨ (telegram a p)[i - 1]? = some 0x10#8) ∧
    (∀ x, (telegram a p)[1]? = some x → 129 ≤ x.toNat) ∧
    (∀ x, (telegram a p).getLast? = some x → 128 ≤ x.toNat)

/-- A receiver that follows R50 finds the end of a telegram in a stream, and un-stuffing what stands between
STX and ETX gives the payload back. -/
def Obligations.ReceiverFindsTelegramEnd : Prop :=
  ∀ (a : Byte) (p rest : List Byte),
    telegramLength (telegram a p ++ rest) = some (telegram a p).length ∧
    unescape (((telegram a p).drop 3).take ((telegram a p).length - 5)) = some p

/-! ### INIT -/

/-- INIT with legal operands, an accepted rate and a transport that answers ok: any open handle is closed, the
new one is configured 8E1 and driven low, the configuration is written and STATE is READY (41_link.md R59). -/
def Obligations.InitOpensAndConfigures : Prop :=
  ∀ (s : State) (addr : Byte) (baud : Word) (flags : Byte) (settle : Half),
    1 ≤ addr.toNat → addr.toNat ≤ 127 → baud ≠ 0#32 → flags &&& 0xFE#8 = 0x00#8 → 100 ≤ settle.toNat →
    s.phase = .idle → baud ∈ s.params.baudOk → answersOk s (closeCalls s + 2) →
    ∃ b, b <:+ s.outBuf ∧
      exec (.init addr baud flags settle) s = .next
        { served s (closeCalls s + 2)
            (closeEvents s ++ [.configure s.params.port baud .even 1 (decide (flags = 0x01#8))
              (.ok (drawAt s (closeCalls s)).handle), .signal false .ok])
            b false false .ok [0x00#8] with
          opState := .ready
          handle := some (drawAt s (closeCalls s)).handle
          addr := addr
          baud := baud
          ctrl := flags
          settle := settle }

/-- INIT with an operand out of range gets ENCODING_ERROR, makes no transport call and writes nothing but
LASTERR (R59, 60_exceptions.md R79). -/
def Obligations.InitRefusesOperands : Prop :=
  ∀ (s : State) (addr : Byte) (baud : Word) (flags : Byte) (settle : Half), s.phase = .idle →
    (addr.toNat = 0 ∨ 127 < addr.toNat ∨ baud = 0#32 ∨ flags &&& 0xFE#8 ≠ 0x00#8 ∨ settle.toNat < 100) →
    exec (.init addr baud flags settle) s = .next (answered s .encodingError [0x01#8])

/-- INIT whose `configure` fails (a refused rate among the reasons): TRANSPORT_ERROR, STATE UNINIT, HANDLE
none, the configuration registers and TE as they were (R59). -/
def Obligations.InitConfigureFailure : Prop :=
  ∀ (s : State) (addr : Byte) (baud : Word) (flags : Byte) (settle : Half),
    1 ≤ addr.toNat → addr.toNat ≤ 127 → baud ≠ 0#32 → flags &&& 0xFE#8 = 0x00#8 → 100 ≤ settle.toNat →
    s.phase = .idle → (s.opState = .uninit ↔ s.handle = none) → answersOk s (closeCalls s) →
    ((drawAt s (closeCalls s)).outcome = .fail ∨
      ((drawAt s (closeCalls s)).outcome = .ok ∧ baud ∉ s.params.baudOk)) →
    ∃ b, b <:+ s.outBuf ∧
      exec (.init addr baud flags settle) s = .next
        { served s (closeCalls s + 1)
            (closeEvents s ++ [.configure s.params.port baud .even 1 (decide (flags = 0x01#8)) .fail])
            b s.te (drawAt s (closeCalls s)).line .transportError [0x02#8] with
          opState := .uninit
          handle := none }

/-- INIT whose first `set_signal` fails: the new handle is closed, TE is the drawn value, TRANSPORT_ERROR,
STATE UNINIT, HANDLE none, the configuration registers as they were (R59). -/
def Obligations.InitSignalFailure : Prop :=
  ∀ (s : State) (addr : Byte) (baud : Word) (flags : Byte) (settle : Half),
    1 ≤ addr.toNat → addr.toNat ≤ 127 → baud ≠ 0#32 → flags &&& 0xFE#8 = 0x00#8 → 100 ≤ settle.toNat →
    s.phase = .idle → (s.opState = .uninit ↔ s.handle = none) → baud ∈ s.params.baudOk →
    answersOk s (closeCalls s + 1) → (drawAt s (closeCalls s + 1)).outcome = .fail →
    (drawAt s (closeCalls s + 2)).outcome ≠ .never →
    ∃ b, b <:+ s.outBuf ∧
      exec (.init addr baud flags settle) s = .next
        { served s (closeCalls s + 3)
            (closeEvents s ++ [.configure s.params.port baud .even 1 (decide (flags = 0x01#8))
                (.ok (drawAt s (closeCalls s)).handle),
              .signal false .fail, .close (drawAt s (closeCalls s)).handle])
            b (drawAt s (closeCalls s + 1)).level (drawAt s (closeCalls s + 2)).line
            .transportError [0x02#8] with
          opState := .uninit
          handle := none }

/-- INIT with legal operands on a call that never returns: the TFC is busy with exactly that call, with no response,
LASTERR, PHASE and the four configuration registers unchanged. At the close of the old handle STATE and HANDLE are
as they were; at `configure`, at `set_signal` and at the close of the new handle STATE is UNINIT and HANDLE none, and
at that close TE is the drawn value of the failed `set_signal` (R20, R59, 41_link.md R66, 93_implementation_defined.md
I14; TE at that moment is log 7, the drawn line log 6, the answer `pending` log 12, the buffer log 8; that these
three calls may hang is log 13). -/
def Obligations.InitHangs : Prop :=
  ∀ (s : State) (addr : Byte) (baud : Word) (flags : Byte) (settle : Half),
    1 ≤ addr.toNat → addr.toNat ≤ 127 → baud ≠ 0#32 → flags &&& 0xFE#8 = 0x00#8 → 100 ≤ settle.toNat →
    (s.opState = .uninit ↔ s.handle = none) →
    let configured (a : ConfigureAnswer) : Event :=
      .configure s.params.port baud .even 1 (decide (flags = 0x01#8)) a
    (∀ h, s.handle = some h → (drawAt s 0).outcome = .never →
      ∃ b, b <:+ s.outBuf ∧
        exec (.init addr baud flags settle) s = .next
          (busy s 1 [.close h] b s.te (drawAt s 0).line s.phase (.close h))) ∧
    (answersOk s (closeCalls s) → (drawAt s (closeCalls s)).outcome = .never →
      ∃ b, b <:+ s.outBuf ∧
        exec (.init addr baud flags settle) s = .next
          { busy s (closeCalls s + 1) (closeEvents s ++ [configured .pending])
              b s.te (drawAt s (closeCalls s)).line s.phase .configure with
            opState := .uninit
            handle := none }) ∧
    (answersOk s (closeCalls s + 1) → baud ∈ s.params.baudOk →
      (drawAt s (closeCalls s + 1)).outcome = .never →
      ∃ b, b <:+ s.outBuf ∧
        exec (.init addr baud flags settle) s = .next
          { busy s (closeCalls s + 2)
              (closeEvents s ++ [configured (.ok (drawAt s (closeCalls s)).handle), .signal false .pending])
              b s.te (drawAt s (closeCalls s + 1)).line s.phase (.signal false) with
            opState := .uninit
            handle := none }) ∧
    (answersOk s (closeCalls s + 1) → baud ∈ s.params.baudOk →
      (drawAt s (closeCalls s + 1)).outcome = .fail → (drawAt s (closeCalls s + 2)).outcome = .never →
      ∃ b, b <:+ s.outBuf ∧
        exec (.init addr baud flags settle) s = .next
          { busy s (closeCalls s + 3)
              (closeEvents s ++ [configured (.ok (drawAt s (closeCalls s)).handle), .signal false .fail,
                .close (drawAt s (closeCalls s)).handle])
              b (drawAt s (closeCalls s + 1)).level (drawAt s (closeCalls s + 2)).line s.phase
              (.close (drawAt s (closeCalls s)).handle) with
            opState := .uninit
            handle := none })

/-- What INIT leaves alone on every path: the parameters, the inputs, TRACE's events so far; and the four
configuration registers unless it succeeds, when it writes its operands (R12, R59). -/
def Obligations.InitFrame : Prop :=
  ∀ (s t : State) (addr : Byte) (baud : Word) (flags : Byte) (settle : Half),
    s.waitingOn = none → exec (.init addr baud flags settle) s = .next t →
    t.params = s.params ∧ t.inputs = s.inputs ∧ (∃ es, t.trace = s.trace ++ es) ∧
    (∃ hs, t.hostLog = s.hostLog ++ hs) ∧ (t.phase = s.phase ∨ t.phase = .idle) ∧
    ((t.addr = s.addr ∧ t.baud = s.baud ∧ t.ctrl = s.ctrl ∧ t.settle = s.settle) ∨
      (t.addr = addr ∧ t.baud = baud ∧ t.ctrl = flags ∧ t.settle = settle ∧
        t.opState = .ready ∧ t.lastErr = .ok))

/-! ### XMIT and SEND -/

/-- XMIT in READY with a transport that answers ok: exactly one pulse, the events of R61 in order and nothing
between them, TE low, response [00], STATE and every other register unchanged (41_link.md R60, R61, R62). -/
def Obligations.XmitMakesOnePulse : Prop :=
  ∀ (s : State) (f : List Byte), s.opState = .ready → answersOk s (leadCalls s + 4) →
    ∃ b, b <:+ s.outBuf ++ f ∧ exec (.xmit f) s = .next (pulseDone s f b)

/-- XMIT, and a SEND that is not too long, outside READY: NOT_READY, no transport call (60_exceptions.md
R82). -/
def Obligations.TransmitNeedsReady : Prop :=
  ∀ (s : State), s.opState ≠ .ready → s.phase = .idle →
    (∀ f, exec (.xmit f) s = .next (answered s .notReady [0x04#8])) ∧
    (∀ code subcode data, data.length + 2 ≤ s.params.maxPayload →
      exec (.send code subcode data) s = .next (answered s .notReady [0x04#8]))

/-- The three failures of XMIT: raising TE, the write, the release. Each makes STATE FAILED and answers [02];
the first two attempt one release at once, without the settle wait; TE is 0 only after a release that
answered ok, else the drawn value; a failed write has passed a prefix of the frame (41_link.md R63). What the
statement says of the output buffer, that `set_signal` lets no byte go (first path) and that a call takes bytes from
its front only, is the model's (log 8, 9), as is the drawn level of the line (log 6). -/
def Obligations.XmitFailurePaths : Prop :=
  ∀ (s : State) (f : List Byte), s.opState = .ready →
    ((drawAt s 0).outcome = .fail → (drawAt s 1).outcome ≠ .never →
      exec (.xmit f) s = .next
        { served s 2 [.signal true .fail, .signal false (releaseAnswer (drawAt s 1))] s.outBuf
            (releaseBit (drawAt s 1)) (releaseLine (drawAt s 1)) .transportError [0x02#8] with
          opState := .failed }) ∧
    (answersOk s (leadCalls s + 1) → (drawAt s (leadCalls s + 1)).outcome = .fail →
      (drawAt s (leadCalls s + 2)).outcome ≠ .never →
      ∃ k b, k = min (drawAt s (leadCalls s + 1)).taken f.length ∧ b <:+ s.outBuf ++ f.take k ∧
        exec (.xmit f) s = .next
          { served s (leadCalls s + 3)
              ([.signal true .ok] ++ leadEvents s ++
                [.write f (.fail k), .signal false (releaseAnswer (drawAt s (leadCalls s + 2)))])
              b (releaseBit (drawAt s (leadCalls s + 2))) (releaseLine (drawAt s (leadCalls s + 2)))
              .transportError [0x02#8] with
            opState := .failed }) ∧
    (answersOk s (leadCalls s + 3) → (drawAt s (leadCalls s + 3)).outcome = .fail →
      ∃ b, b <:+ s.outBuf ++ f ∧
        exec (.xmit f) s = .next
          { served s (leadCalls s + 4)
              ([.signal true .ok] ++ leadEvents s ++
                [.write f .ok, .wait s.settle.toNat, .signal false .fail])
              b (drawAt s (leadCalls s + 3)).level (drawAt s (leadCalls s + 3)).line
              .transportError [0x02#8] with
            opState := .failed })

/-- XMIT in READY on a call or wait of its sequence that never returns: the TFC is busy with exactly that call,
with no response and LASTERR unchanged. Raising TE: PHASE ASSERT. Lead wait: LEAD, TE 1. Write: WRITE, TE 1. Settle
wait: HOLD, TE 1. Release: RELEASE, TE still 1 (10_state.md R19, 41_link.md R66, 93_implementation_defined.md I14;
the answer `pending` is log 12, the drawn line log 6, what the buffer holds log 8 and 9). -/
def Obligations.XmitHangs : Prop :=
  ∀ (s : State) (f : List Byte), s.opState = .ready →
    ((drawAt s 0).outcome = .never →
      ∃ b, b <:+ s.outBuf ∧
        exec (.xmit f) s = .next
          (busy s 1 [.signal true .pending] b s.te (drawAt s 0).line .assert (.signal true))) ∧
    (s.params.teLeadMs ≠ 0 → (drawAt s 0).outcome = .ok → (drawAt s 1).outcome = .never →
      ∃ b, b <:+ s.outBuf ∧
        exec (.xmit f) s = .next
          (busy s 2 [.signal true .ok, .wait s.params.teLeadMs] b true true .lead
            (.wait s.params.teLeadMs))) ∧
    (answersOk s (leadCalls s + 1) → (drawAt s (leadCalls s + 1)).outcome = .never →
      ∃ b, b <:+ s.outBuf ++ f.take (drawAt s (leadCalls s + 1)).taken ∧
        exec (.xmit f) s = .next
          (busy s (leadCalls s + 2) ([.signal true .ok] ++ leadEvents s ++ [.write f .pending])
            b true true .write (.write f))) ∧
    (answersOk s (leadCalls s + 2) → (drawAt s (leadCalls s + 2)).outcome = .never →
      ∃ b, b <:+ s.outBuf ++ f ∧
        exec (.xmit f) s = .next
          (busy s (leadCalls s + 3)
            ([.signal true .ok] ++ leadEvents s ++ [.write f .ok, .wait s.settle.toNat])
            b true true .hold (.wait s.settle.toNat))) ∧
    (answersOk s (leadCalls s + 3) → (drawAt s (leadCalls s + 3)).outcome = .never →
      ∃ b, b <:+ s.outBuf ++ f ∧
        exec (.xmit f) s = .next
          (busy s (leadCalls s + 4)
            ([.signal true .ok] ++ leadEvents s ++
              [.write f .ok, .wait s.settle.toNat, .signal false .pending])
            b true (drawAt s (leadCalls s + 3)).line .release (.signal false)))

/-- XMIT in READY whose failure path hangs: after a failed raise or a failed write the release attempt never
returns. The TFC is busy with that release, STATE is still READY, PHASE is still ASSERT or WRITE and TE is the drawn
value or 1; no response (10_state.md R19, 41_link.md §1, R66; the open values as in XmitHangs). -/
def Obligations.FailPathHangs : Prop :=
  ∀ (s : State) (f : List Byte), s.opState = .ready →
    ((drawAt s 0).outcome = .fail → (drawAt s 1).outcome = .never →
      ∃ b, b <:+ s.outBuf ∧
        exec (.xmit f) s = .next
          (busy s 2 [.signal true .fail, .signal false .pending] b (drawAt s 0).level (drawAt s 1).line
            .assert (.signal false))) ∧
    (answersOk s (leadCalls s + 1) → (drawAt s (leadCalls s + 1)).outcome = .fail →
      (drawAt s (leadCalls s + 2)).outcome = .never →
      ∃ k b, k = min (drawAt s (leadCalls s + 1)).taken f.length ∧ b <:+ s.outBuf ++ f.take k ∧
        exec (.xmit f) s = .next
          (busy s (leadCalls s + 3)
            ([.signal true .ok] ++ leadEvents s ++ [.write f (.fail k), .signal false .pending])
            b true (drawAt s (leadCalls s + 2)).line .write (.signal false)))

/-- Every prefix of the frame is admitted as what a failed write passed (R63, 90_conflicts.md C4). -/
def Obligations.EveryPrefixOfFailedWriteAdmitted : Prop :=
  ∀ (s : State) (f : List Byte) (k : Nat), s.opState = .ready → k ≤ f.length →
    ∃ ds t, exec (.xmit f) { s with draws := ds } = .next t ∧ t.opState = .failed ∧
      t.trace = s.trace ++ ([.signal true .ok] ++ leadEvents s ++ [.write f (.fail k), .signal false .ok])

/-- SEND in READY, within P_MAX_PAYLOAD, with a transport that answers ok: one pulse that writes the telegram
of ADDR and the payload [code, subcode] ++ data (R45, R64). -/
def Obligations.SendWritesTelegram : Prop :=
  ∀ (s : State) (code subcode : Byte) (data : List Byte), s.opState = .ready →
    data.length + 2 ≤ s.params.maxPayload → answersOk s (leadCalls s + 4) →
    ∃ b, b <:+ s.outBuf ++ telegramOf s.addr ([code, subcode] ++ data) ∧
      exec (.send code subcode data) s =
        .next (pulseDone s (telegramOf s.addr ([code, subcode] ++ data)) b)

/-- SEND's checks in order: too long in any STATE is ENCODING_ERROR, then NOT_READY; else it is the XMIT of its
telegram, on every answer of the transport (R64, 60_exceptions.md R85). -/
def Obligations.SendChecksThenTransmits : Prop :=
  ∀ (s : State) (code subcode : Byte) (data : List Byte), s.phase = .idle →
    (data.length ≤ 65535 →
      decode ([0x07#8, code, subcode] ++ counted data) = .ok (.send code subcode data)) ∧
    (s.params.maxPayload < data.length + 2 →
      exec (.send code subcode data) s = .next (answered s .encodingError [0x01#8])) ∧
    (data.length + 2 ≤ s.params.maxPayload → s.opState ≠ .ready →
      exec (.send code subcode data) s = .next (answered s .notReady [0x04#8])) ∧
    (data.length + 2 ≤ s.params.maxPayload → s.opState = .ready →
      exec (.send code subcode data) s = exec (.xmit (telegramOf s.addr ([code, subcode] ++ data))) s)

/-- What XMIT, SEND and the command calls leave alone on every path: the parameters, the four configuration
registers, HANDLE, the inputs, TRACE's events so far; STATE stays or becomes FAILED (R12, R60). -/
def Obligations.TransmitFrame : Prop :=
  ∀ (i : Instr) (s t : State), isTransmit i = true → s.waitingOn = none → exec i s = .next t →
    t.params = s.params ∧ t.addr = s.addr ∧ t.baud = s.baud ∧ t.ctrl = s.ctrl ∧ t.settle = s.settle ∧
    t.handle = s.handle ∧ t.inputs = s.inputs ∧ (∃ es, t.trace = s.trace ++ es) ∧
    (∃ hs, t.hostLog = s.hostLog ++ hs) ∧ (t.opState = s.opState ∨ t.opState = .failed)

/-- The settle hazard's safe side: with an empty output buffer, a frame with len × 11000 ≤ SETTLE × BAUD, or any
frame under ON_SHIFTED, has left the buffer when TE drops (70_reset_and_hazards.md R100; the 11 bit times are
general knowledge, log 8). -/
def Obligations.WholeFrameLeavesBeforeRelease : Prop :=
  ∀ (s : State) (f : List Byte), s.opState = .ready → answersOk s (leadCalls s + 4) → s.outBuf = [] →
    (s.params.writeCompletion = .onShifted ∨ f.length * 11000 ≤ s.settle.toNat * s.baud.toNat) →
    exec (.xmit f) s = .next (pulseDone s f [])

/-- The settle hazard itself: under ON_ACCEPT a longer frame may leave bytes in the buffer when TE drops, with
the response OK (R100; log 8). -/
def Obligations.TruncationIsAdmitted : Prop :=
  ∀ (s : State) (f : List Byte), s.opState = .ready → s.params.writeCompletion = .onAccept →
    s.settle.toNat * s.baud.toNat < f.length * 11000 →
    ∃ ds b, b ≠ [] ∧ b <:+ f ∧
      exec (.xmit f) { s with draws := ds } = .next (pulseDone { s with draws := ds } f b)

/-- The tail of R100: in the state a pulse leaves, with any bytes b still in the output buffer, TE is low, and any
number k of those bytes can go out in the gap that follows, in an idle step and before the answer of a STATUS alike,
with TE and its line low all along (70_reset_and_hazards.md R100; that bytes go out in the gap between requests, and
how many, is the model's, log 24). -/
def Obligations.TailGoesOutWithBusReleased : Prop :=
  ∀ (s : State) (f b : List Byte) (k : Nat), s.waitingOn = none →
    let t : State := { pulseDone s f b with gaps := k :: s.gaps }
    t.outBuf = b ∧ t.te = false ∧ t.teLine = false ∧
    (s.inputs = [] →
      step t = .next { t with outBuf := b.drop k, gaps := s.gaps, gapsTaken := s.gapsTaken + 1 }) ∧
    (∀ rest, s.inputs = .request [0x08#8] :: rest →
      ∃ r, step t = .next { t with
        outBuf := b.drop k
        gaps := s.gaps
        gapsTaken := s.gapsTaken + 1
        inputs := rest
        hostLog := t.hostLog ++ [.response r] })

/-! ### STATUS -/

/-- STATUS in every state: the eleven bytes of R65, nothing written, LASTERR included (41_link.md R65,
10_state.md R22). -/
def Obligations.StatusReadsRegisters : Prop :=
  decode [0x08#8] = .ok .status ∧
  ∀ s : State, ∃ statreg : Byte,
    statreg.toNat = (match s.opState with | .uninit => 0 | .ready => 1 | .failed => 2)
      + (if s.te then 4 else 0) ∧
    exec .status s = .next { s with hostLog := s.hostLog ++ [.response
      [0x00#8, statreg, s.addr,
        BitVec.ofNat 8 (s.baud.toNat / 2 ^ 24), BitVec.ofNat 8 (s.baud.toNat / 2 ^ 16 % 256),
        BitVec.ofNat 8 (s.baud.toNat / 2 ^ 8 % 256), BitVec.ofNat 8 (s.baud.toNat % 256),
        s.ctrl, BitVec.ofNat 8 (s.settle.toNat / 256), BitVec.ofNat 8 (s.settle.toNat % 256),
        (match s.lastErr with
          | .ok => 0x00#8
          | .encodingError => 0x01#8
          | .transportError => 0x02#8
          | .illegalRequest => 0x03#8
          | .notReady => 0x04#8
          | .decodeError => 0x05#8)]] }

/-! ### The commands -/

/-- A pseudo-instruction is exactly the one SEND it expands to, or no request at all when its encoder raises
ENCODING_ERROR, which then changes nothing of the TFC (30_encoding.md R49, 45_command_payloads.md R68). -/
def Obligations.CommandIsOneSend : Prop :=
  ∀ (i : Instr) (s : State), isCommand i = true →
    (∀ j, expand s.params i = some j →
      (∃ code data, j = .send code 0x00#8 data) ∧ exec i s = exec j s) ∧
    (expand s.params i = none →
      exec i s = .next (refusedOnHost s))

/-- SIMPLE_TEXT (R71): with legal operands it is the SEND of 11, 00 and [align, page, row, col] ++ text in every
state, and in READY on a transport that answers ok it completes as that pulse; with an operand or a character
out of range it is refused on the host side. -/
def Obligations.SimpleTextSendsItsPayload : Prop :=
  ∀ (s : State) (t : Text) (align : Align),
    (∀ (page row col : Nat) (e : List Byte), page ≤ 255 → row ≤ 255 → col ≤ 255 →
      encodedText s.params t = some e →
      let d := [alignByte s.params align, BitVec.ofNat 8 page, BitVec.ofNat 8 row, BitVec.ofNat 8 col] ++ e
      let f := telegramOf s.addr ([0x11#8, 0x00#8] ++ d)
      exec (.simpleText page row col t align) s = exec (.send 0x11#8 0x00#8 d) s ∧
      (s.opState = .ready → d.length + 2 ≤ s.params.maxPayload → answersOk s (leadCalls s + 4) →
        ∃ b, b <:+ s.outBuf ++ f ∧ exec (.simpleText page row col t align) s = .next (pulseDone s f b))) ∧
    (∀ page row col : Int, ¬ (inByte page ∧ inByte row ∧ inByte col) ∨ encodedText s.params t = none →
      exec (.simpleText page row col t align) s = .next (refusedOnHost s))

/-- TEXT (R72), with the column bounds in either order. -/
def Obligations.TextSendsItsPayload : Prop :=
  ∀ (s : State) (t : Text) (align : Align),
    (∀ (page row colStart colEnd : Nat) (e : List Byte), page ≤ 255 → row ≤ 255 →
      colStart ≤ 65535 → colEnd ≤ 65535 → encodedText s.params t = some e →
      let d := [alignByte s.params align, BitVec.ofNat 8 page, BitVec.ofNat 8 row,
        BitVec.ofNat 8 (colStart / 256), BitVec.ofNat 8 (colStart % 256),
        BitVec.ofNat 8 (colEnd / 256), BitVec.ofNat 8 (colEnd % 256)] ++ e
      let f := telegramOf s.addr ([0x15#8, 0x00#8] ++ d)
      exec (.text page row colStart colEnd t align) s = exec (.send 0x15#8 0x00#8 d) s ∧
      (s.opState = .ready → d.length + 2 ≤ s.params.maxPayload → answersOk s (leadCalls s + 4) →
        ∃ b, b <:+ s.outBuf ++ f ∧
          exec (.text page row colStart colEnd t align) s = .next (pulseDone s f b))) ∧
    (∀ page row colStart colEnd : Int,
      ¬ (inByte page ∧ inByte row ∧ inHalf colStart ∧ inHalf colEnd) ∨ encodedText s.params t = none →
      exec (.text page row colStart colEnd t align) s = .next (refusedOnHost s))

/-- SET_PAGES (R73): the pairs in list order, an empty list included. -/
def Obligations.SetPagesSendsItsPairs : Prop :=
  ∀ s : State,
    (∀ pairs : List (Nat × Nat), (∀ x ∈ pairs, x.1 ≤ 255 ∧ x.2 ≤ 255) →
      let i := Instr.setPages (pairs.map fun x => ((x.1 : Int), (x.2 : Int)))
      let d := [0x00#8] ++ pairs.flatMap fun x => [BitVec.ofNat 8 x.1, BitVec.ofNat 8 x.2]
      let f := telegramOf s.addr ([0x24#8, 0x00#8] ++ d)
      exec i s = exec (.send 0x24#8 0x00#8 d) s ∧
      (s.opState = .ready → d.length + 2 ≤ s.params.maxPayload → answersOk s (leadCalls s + 4) →
        ∃ b, b <:+ s.outBuf ++ f ∧ exec i s = .next (pulseDone s f b))) ∧
    (∀ pairs : List (Int × Int), ¬ (∀ x ∈ pairs, inByte x.1 ∧ inByte x.2) →
      exec (.setPages pairs) s = .next (refusedOnHost s))

/-- SET_PAGE (R74): SET_PAGES with the one pair (page, 255), in every state and for every operand; a legal page
sends [24 00 00 page FF], any other is refused on the host side. -/
def Obligations.SetPageIsOnePairAtFullDuration : Prop :=
  ∀ s : State,
    (∀ page : Int, exec (.setPage page) s = exec (.setPages [(page, 255)]) s) ∧
    (∀ page : Nat, page ≤ 255 →
      let d := [0x00#8, BitVec.ofNat 8 page, 0xFF#8]
      let f := telegramOf s.addr ([0x24#8, 0x00#8] ++ d)
      exec (.setPage page) s = exec (.send 0x24#8 0x00#8 d) s ∧
      (s.opState = .ready → 5 ≤ s.params.maxPayload → answersOk s (leadCalls s + 4) →
        ∃ b, b <:+ s.outBuf ++ f ∧ exec (.setPage page) s = .next (pulseDone s f b))) ∧
    (∀ page : Int, ¬ inByte page → exec (.setPage page) s = .next (refusedOnHost s))

/-- SET_CLOCK (R75): twelve digit bytes, second first, in the digit order of the parameter, then 00. -/
def Obligations.SetClockSendsItsDigits : Prop :=
  ∀ s : State,
    (∀ year month day hour minute second : Nat,
      year ≤ 99 → month ≤ 99 → day ≤ 99 → hour ≤ 99 → minute ≤ 99 → second ≤ 99 →
      let i := Instr.setClock year month day hour minute second
      let d := ([second, minute, hour, day, month, year].flatMap fun v =>
        match s.params.clockDigitOrder with
        | .onesFirst => [BitVec.ofNat 8 (v % 10), BitVec.ofNat 8 (v / 10)]
        | .tensFirst => [BitVec.ofNat 8 (v / 10), BitVec.ofNat 8 (v % 10)]) ++ [0x00#8]
      let f := telegramOf s.addr ([0x3A#8, 0x00#8] ++ d)
      exec i s = exec (.send 0x3A#8 0x00#8 d) s ∧
      (s.opState = .ready → 15 ≤ s.params.maxPayload → answersOk s (leadCalls s + 4) →
        ∃ b, b <:+ s.outBuf ++ f ∧ exec i s = .next (pulseDone s f b))) ∧
    (∀ year month day hour minute second : Int,
      ¬ (inClock year ∧ inClock month ∧ inClock day ∧ inClock hour ∧ inClock minute ∧ inClock second) →
      exec (.setClock year month day hour minute second) s = .next (refusedOnHost s))

/-- SET_CLOCK_DISPLAY (R76): two format bytes, two rows and four column bounds; a row or a bound out of range is
refused on the host side, whatever the formats. -/
def Obligations.SetClockDisplaySendsItsPlacement : Prop :=
  ∀ (s : State) (dateFormat timeFormat : Name),
    (∀ (df tf : Byte) (dateRow dateColStart dateColEnd timeRow timeColStart timeColEnd : Nat),
      s.params.dateFmt.lookup dateFormat = some df → s.params.timeFmt.lookup timeFormat = some tf →
      dateRow ≤ 255 → timeRow ≤ 255 → dateColStart ≤ 65535 → dateColEnd ≤ 65535 →
      timeColStart ≤ 65535 → timeColEnd ≤ 65535 →
      let i := Instr.setClockDisplay dateFormat dateRow dateColStart dateColEnd timeFormat timeRow
        timeColStart timeColEnd
      let d := [df, BitVec.ofNat 8 dateRow,
        BitVec.ofNat 8 (dateColStart / 256), BitVec.ofNat 8 (dateColStart % 256),
        BitVec.ofNat 8 (dateColEnd / 256), BitVec.ofNat 8 (dateColEnd % 256),
        tf, BitVec.ofNat 8 timeRow,
        BitVec.ofNat 8 (timeColStart / 256), BitVec.ofNat 8 (timeColStart % 256),
        BitVec.ofNat 8 (timeColEnd / 256), BitVec.ofNat 8 (timeColEnd % 256)]
      let f := telegramOf s.addr ([0x3D#8, 0x00#8] ++ d)
      exec i s = exec (.send 0x3D#8 0x00#8 d) s ∧
      (s.opState = .ready → 14 ≤ s.params.maxPayload → answersOk s (leadCalls s + 4) →
        ∃ b, b <:+ s.outBuf ++ f ∧ exec i s = .next (pulseDone s f b))) ∧
    (∀ dateRow dateColStart dateColEnd timeRow timeColStart timeColEnd : Int,
      ¬ (inByte dateRow ∧ inHalf dateColStart ∧ inHalf dateColEnd ∧
          inByte timeRow ∧ inHalf timeColStart ∧ inHalf timeColEnd) →
      exec (.setClockDisplay dateFormat dateRow dateColStart dateColEnd timeFormat timeRow timeColStart
        timeColEnd) s = .next (refusedOnHost s))

/-- A date or time format name outside its map is refused on the host side, as an operand out of range is (the
model's choice: the spec names no error for it, log 17). -/
def Obligations.UnknownFormatNameRefusedOnHost : Prop :=
  ∀ (s : State) (dateFormat timeFormat : Name)
    (dateRow dateColStart dateColEnd timeRow timeColStart timeColEnd : Int),
    s.params.dateFmt.lookup dateFormat = none ∨ s.params.timeFmt.lookup timeFormat = none →
    exec (.setClockDisplay dateFormat dateRow dateColStart dateColEnd timeFormat timeRow timeColStart
      timeColEnd) s = .next (refusedOnHost s)

/-- The bytes of a text: the codepage byte of every character in order; for styled runs, each run's [00,
attribute] before its text, and an attribute value is 0 to 255 (R69). -/
def Obligations.EncodedTextBytes : Prop :=
  ∀ (p : Params) (bs : List Byte),
    (∀ t : List Char, encodedText p (.plain t) = some bs ↔
      t.map (fun c => p.codepage.lookup c) = bs.map some) ∧
    (∀ runs : List StyledRun, encodedText p (.styled runs) = some bs ↔
      ∃ parts : List (List Byte), bs = parts.flatten ∧
        List.Forall₂ (fun r part => ∃ a e, part = 0x00#8 :: a :: e ∧
          encodedText p (.plain r.text) = some e ∧
          (match r.attr with
            | .value n => 0 ≤ n ∧ n ≤ 255 ∧ (a.toNat : Int) = n
            | .blink => a = p.attr.blink
            | .invert => a = p.attr.invert
            | .blinkInvert => a = p.attr.blinkInvert)) runs parts)

/-! ### Rules of the whole machine -/

/-- The pure requests complete in every STATE, make no transport call and change no register but LASTERR
(20_memory.md R32, 10_state.md R25). -/
def Obligations.PureRequestsTouchOnlyLastErr : Prop :=
  ∀ (i : Instr) (s : State), isPure i = true → s.phase = .idle →
    ∃ e r, exec i s = .next (answered s e (statusCode e :: r))

/-- A request that ends gets exactly one response, whose first byte is its status, and every request but
STATUS writes that status to LASTERR; a request whose transport call never returns gets none and leaves
LASTERR alone (30_encoding.md R35, 10_state.md R22, 41_link.md R66). -/
def Obligations.OneResponsePerRequest : Prop :=
  ∀ (i : Instr) (s t : State), isCommand i = false → s.waitingOn = none → exec i s = .next t →
    (t.waitingOn = none ∧ ∃ r,
      (i = .status → t.hostLog = s.hostLog ++ [.response (0x00#8 :: r)] ∧ t.lastErr = s.lastErr) ∧
      (i ≠ .status → t.hostLog = s.hostLog ++ [.response (statusCode t.lastErr :: r)])) ∨
    (t.waitingOn ≠ none ∧ t.hostLog = s.hostLog ∧ t.lastErr = s.lastErr)

/-- ILLEGAL_REQUEST, ENCODING_ERROR, NOT_READY and DECODE_ERROR are precise: a request answered by one of them
has changed nothing but LASTERR (60_exceptions.md R87, R88). -/
def Obligations.CheckedErrorsArePrecise : Prop :=
  ∀ (i : Instr) (s t : State) (e : Status), s.phase = .idle → s.waitingOn = none → exec i s = .next t →
    e ∈ [.illegalRequest, .encodingError, .notReady, .decodeError] →
    t.hostLog = s.hostLog ++ [.response [statusCode e]] →
    t = answered s e [statusCode e]

/-- STATE changes only by INIT, which makes it READY when it answers OK and UNINIT otherwise, and by a
transmit in READY that answers TRANSPORT_ERROR, which makes it FAILED (10_state.md R18, 60_exceptions.md R88). -/
def Obligations.StateChangesOnlyByLinkRequests : Prop :=
  ∀ (i : Instr) (s t : State), s.waitingOn = none → exec i s = .next t → t.opState ≠ s.opState →
    (isInit i = true ∧ ((t.opState = .ready ∧ t.lastErr = .ok) ∨ t.opState = .uninit)) ∨
    (isTransmit i = true ∧ s.opState = .ready ∧ t.opState = .failed ∧ t.lastErr = .transportError)

/-- No instruction but INIT writes ADDR, BAUD, CTRL or SETTLE or changes HANDLE, and no instruction removes an
event of TRACE or changes a parameter (R12, R21, R23). -/
def Obligations.OnlyInitConfigures : Prop :=
  ∀ (i : Instr) (s t : State), s.waitingOn = none → exec i s = .next t →
    (isInit i = false → t.addr = s.addr ∧ t.baud = s.baud ∧ t.ctrl = s.ctrl ∧ t.settle = s.settle ∧
      t.handle = s.handle) ∧
    (∃ es, t.trace = s.trace ++ es) ∧ t.params = s.params

/-- The inputs are taken one at a time and in order: a step of a free TFC removes exactly the first. Of requests
this is 20_memory.md R33's first point; that they stand in a list is log 1, that command calls stand in it too is log
14, and that a reset waits its turn there and leaves the later inputs and the parameters is log 11, all three the
model's choice. -/
def Obligations.StepTakesInputsInOrder : Prop :=
  ∀ (s t : State) (x : HostItem) (rest : List HostItem),
    s.waitingOn = none → s.inputs = x :: rest → step s = .next t → t.inputs = rest ∧ t.params = s.params

/-- A TFC whose transport call never returned takes no request: without a reset it has no step (41_link.md R66,
93_implementation_defined.md I14). -/
def Obligations.HungTfcHoldsEveryRequest : Prop :=
  ∀ (s : State) (c : PendingCall), s.waitingOn = some c → HostItem.reset ∉ s.inputs →
    step s = .fault (.hung c)

/-- A reset ends a request in progress with no response and gives the reset values of R96; requests that were
held stay presented (70_reset_and_hazards.md R97; the last clause is the model's choice, log 11). -/
def Obligations.ResetFreesHungTfc : Prop :=
  ∀ (s : State) (c : PendingCall), s.waitingOn = some c → HostItem.reset ∈ s.inputs →
    step s = .next { State.reset with
      params := s.params
      teLine := (drawAt s 0).line
      inputs := s.inputs.erase .reset
      hostLog := s.hostLog ++ [.requestLost]
      draws := s.draws.drop 1
      drawn := s.drawn + 1
      gaps := s.gaps
      gapsTaken := s.gapsTaken }

/-- A reset between requests gives the reset values of R96 with no transport call and a TE line at an open
level (R97; what stays of the host's side is the model's choice, log 11). -/
def Obligations.ResetBetweenRequests : Prop :=
  ∀ (s : State) (rest : List HostItem), s.waitingOn = none → s.inputs = .reset :: rest →
    step s = .next { State.reset with
      params := s.params
      teLine := (drawAt s 0).line
      inputs := rest
      hostLog := s.hostLog
      draws := s.draws.drop 1
      drawn := s.drawn + 1
      gaps := s.gaps
      gapsTaken := s.gapsTaken }

/-- A reset that lands while a request is in progress, whatever the request and STATE, transport call or none, ends it
with no response and gives the reset values of R96; the same for a command call whose encoder gave a request, and
where its encoder refused, the host sees that and the reset falls between requests (R97; how such a reset is presented
and what stays of the host's side are the model's choice, log 11). -/
def Obligations.ResetEndsRequestInProgress : Prop :=
  ∀ (s : State) (rest : List HostItem), s.waitingOn = none →
    let resetSeen (e : HostEvent) : State := { State.reset with
      params := s.params
      teLine := (drawAt s 0).line
      inputs := rest
      hostLog := s.hostLog ++ [e]
      draws := s.draws.drop 1
      drawn := s.drawn + 1
      gaps := s.gaps
      gapsTaken := s.gapsTaken }
    (∀ q, s.inputs = .requestCut q :: rest → step s = .next (resetSeen .requestLost)) ∧
    (∀ c, s.inputs = .commandCut c :: rest →
      (∀ j, expand s.params c.toInstr = some j → step s = .next (resetSeen .requestLost)) ∧
      (expand s.params c.toInstr = none → step s = .next (resetSeen .encodingError)))

/-- A run ends: a free TFC takes one step for each thing presented and is then idle with nothing left, unless on
the way a transport call or wait has not returned, which is a hang and no end (70_reset_and_hazards.md R105,
41_link.md R66). -/
def Obligations.RunEndsOrHangs : Prop :=
  ∀ s : State, Inv s → s.waitingOn = none →
    (∃ t, core.run s.inputs.length s = .next t ∧ runEnded t) ∨
    (∃ k t c, k ≤ s.inputs.length ∧ core.run k s = .next t ∧ t.waitingOn = some c)

/-- The reset values (R96). -/
def Obligations.ResetValuesAsStated : Prop :=
  statreg State.reset = 0x00#8 ∧ State.reset.opState = .uninit ∧ State.reset.te = false ∧
  State.reset.addr = 0x00#8 ∧ State.reset.baud = 9600#32 ∧ State.reset.ctrl = 0x00#8 ∧
  State.reset.settle = 100#16 ∧ statusCode State.reset.lastErr = 0x00#8 ∧ State.reset.phase = .idle ∧
  State.reset.handle = none ∧ State.reset.trace = [] ∧ State.reset.outBuf = []

/-- The invariant holds at reset. -/
def Obligations.ResetMeetsTheInvariant : Prop := Inv State.reset

/-- Every step keeps the invariant: PHASE IDLE when free (R19), HANDLE none exactly in UNINIT (R23), 1 ≤ ADDR ≤
127 outside UNINIT (R13), reserved bits 0 (R12, R15), legal BAUD and SETTLE (R14, R16), TE low in READY between
requests, and on TRACE no write outside a pulse, no pulse inside another, and no release after a good write
without a settle wait of at least 100 ms (R33, R61). -/
def Obligations.EveryStepKeepsTheInvariant : Prop :=
  ∀ s t : State, Inv s → step s = .next t → Inv t
end

