-- ==== Sys2Proof/Laws/Telegram.lean ====
section
/-! SUPPORT. The framing functions in the terms the statements use: sums, stuffing, limits, addresses. -/

namespace Sys2Proof.Machine

open Sys2Proof.Safety

theorem byteSum_eq_sum (b : List Byte) : byteSum b = (b.map BitVec.toNat).sum := by
  induction b with
  | nil => rfl
  | cons x t ih => simp [byteSum, ih]

theorem isSpecial_iff (x : Byte) :
    isSpecial x = true ↔ x ∈ [0x02#8, 0x03#8, 0x04#8, 0x05#8, 0x10#8] := by
  simp [isSpecial, ESCSET, STX, ETX, SOT, ENQ, DLE]

theorem escape_eq_stuffed (b : List Byte) : escape b = stuffed b := by
  induction b with
  | nil => rfl
  | cons x t ih =>
    by_cases h : isSpecial x = true
    · have h' := (isSpecial_iff x).mp h
      simp only [escape, if_pos h, stuffed, List.flatMap_cons, if_pos h'] at *
      rw [ih]; rfl
    · have h' := mt (isSpecial_iff x).mpr h
      simp only [escape, if_neg h, stuffed, List.flatMap_cons, if_neg h'] at *
      rw [ih]; rfl

theorem exceedsPayload_iff (p : Params) (n : Nat) : exceedsPayload p n = true ↔ p.maxPayload < n := by
  have h : exceedsPayload p n = (match n - 2 with
    | 0 => false
    | k + 1 => decide (p.payloadExtra.val < k + 1)) := rfl
  rw [h]
  unfold Params.maxPayload
  rcases hn : n - 2 with _ | k
  · simp; omega
  · simp; omega

theorem legalAddress_iff (a : Byte) : legalAddress a = true ↔ 1 ≤ a.toNat ∧ a.toNat ≤ 127 := by
  simp [legalAddress]

set_option maxRecDepth 4000 in
/-- Setting bit 7 of a remainder modulo 256 is the remainder modulo 128, plus 128. -/
theorem or_flag_toNat (n : Nat) : (BitVec.ofNat 8 (n % 256) ||| 0x80#8).toNat = n % 128 + 128 := by
  have key : ∀ m : Fin 256, (BitVec.ofNat 8 m.val ||| 0x80#8).toNat = m.val % 128 + 128 := by decide
  have h := key ⟨n % 256, Nat.mod_lt _ (by norm_num)⟩
  rw [show n % 128 = n % 256 % 128 by omega]
  exact h

theorem checksum_eq_checksumOf (b : List Byte) : checksum b = checksumOf b := by
  apply BitVec.eq_of_toNat_eq
  have h := or_flag_toNat (byteSum b)
  rw [checksum, CKFLAG, h, byteSum_eq_sum, checksumOf, BitVec.toNat_ofNat]
  omega

theorem telegram_eq_telegramOf (a : Byte) (p : List Byte) : telegram a p = telegramOf a p := by
  rw [telegram, telegramOf, escape_eq_stuffed, checksum_eq_checksumOf]
  rfl

theorem stuffed_cons_special {x : Byte} (t : List Byte)
    (h : x ∈ [0x02#8, 0x03#8, 0x04#8, 0x05#8, 0x10#8]) : stuffed (x :: t) = 0x10#8 :: x :: stuffed t := by
  rw [stuffed, List.flatMap_cons, if_pos h]; rfl

theorem stuffed_cons_plain {x : Byte} (t : List Byte)
    (h : x ∉ [0x02#8, 0x03#8, 0x04#8, 0x05#8, 0x10#8]) : stuffed (x :: t) = x :: stuffed t := by
  rw [stuffed, List.flatMap_cons, if_neg h]; rfl

theorem stuffed_length (b : List Byte) : (stuffed b).length = b.length + specials b := by
  induction b with
  | nil => rfl
  | cons x t ih =>
    by_cases h : x ∈ [0x02#8, 0x03#8, 0x04#8, 0x05#8, 0x10#8]
    · rw [stuffed_cons_special t h, specials, List.countP_cons_of_pos (by simpa using h)]
      simp only [List.length_cons, ih, specials]; omega
    · rw [stuffed_cons_plain t h, specials, List.countP_cons_of_neg (by simpa using h)]
      simp only [List.length_cons, ih, specials]; omega

theorem exceedsPayload_of_le {p : Params} {n : Nat} (h : n ≤ p.maxPayload) : exceedsPayload p n = false := by
  by_contra hc
  have := (exceedsPayload_iff p n).mp (by simpa using hc)
  omega

theorem exceedsPayload_of_lt {p : Params} {n : Nat} (h : p.maxPayload < n) : exceedsPayload p n = true :=
  (exceedsPayload_iff p n).mpr h

theorem legalAddress_of_range {a : Byte} (h1 : 1 ≤ a.toNat) (h2 : a.toNat ≤ 127) : legalAddress a = true :=
  (legalAddress_iff a).mpr ⟨h1, h2⟩

theorem legalAddress_out_of_range {a : Byte} (h : a.toNat = 0 ∨ 127 < a.toNat) : legalAddress a = false := by
  by_contra hc
  have := (legalAddress_iff a).mp (by simpa using hc)
  omega

theorem checksumOf_toNat (b : List Byte) : (checksumOf b).toNat = (b.map BitVec.toNat).sum % 128 + 128 := by
  rw [checksumOf, BitVec.toNat_ofNat]; omega

/-- UNESC undoes ESC (R53). -/
theorem unescape_stuffed (b : List Byte) : unescape (stuffed b) = some b := by
  unfold unescape
  induction b with
  | nil => rfl
  | cons x t ih =>
    by_cases h : x ∈ [0x02#8, 0x03#8, 0x04#8, 0x05#8, 0x10#8]
    · rw [stuffed_cons_special t h]
      have hx := (isSpecial_iff x).mpr h
      simp [unescapeFrom, DLE, hx, ih]
    · rw [stuffed_cons_plain t h]
      have hx : isSpecial x = false := by simpa using mt (isSpecial_iff x).mp h
      have hd : x ≠ DLE := by rintro rfl; exact h (by decide)
      simp [unescapeFrom, hd, hx, ih]

/-- ESC undoes whatever UNESC accepts (R53). -/
theorem stuffed_of_unescapeFrom : ∀ (c : List Byte) (b : List Byte),
    (unescapeFrom false c = some b → stuffed b = c) ∧
    (unescapeFrom true c = some b → stuffed b = DLE :: c) := by
  intro c
  induction c with
  | nil => intro b; simp [unescapeFrom]; intro h; subst h; rfl
  | cons x t ih =>
    intro b
    constructor
    · simp only [unescapeFrom]
      split
      · rename_i hx; intro h; rw [(ih b).2 h, hx]
      · split
        · simp
        · rename_i h1 h2
          simp only [Option.map_eq_some_iff]
          rintro ⟨a, ha, rfl⟩
          rw [stuffed_cons_plain a (mt (isSpecial_iff x).mpr h2), (ih a).1 ha]
    · simp only [unescapeFrom]
      split
      · rename_i hx
        simp only [Option.map_eq_some_iff]
        rintro ⟨a, ha, rfl⟩
        rw [stuffed_cons_special a ((isSpecial_iff x).mp hx), (ih a).1 ha]; rfl
      · simp

/-- In an escaped payload no ETX stands unescaped (R50). -/
theorem unescapedEtxAt_stuffed : ∀ (p rest : List Byte),
    unescapedEtxAt false (stuffed p ++ ETX :: rest) = some (stuffed p).length := by
  intro p rest
  induction p with
  | nil => simp [stuffed, unescapedEtxAt]
  | cons x t ih =>
    by_cases h : x ∈ [0x02#8, 0x03#8, 0x04#8, 0x05#8, 0x10#8]
    · rw [stuffed_cons_special t h]
      simp [unescapedEtxAt, ETX, DLE, ih] at *
      try exact ih
    · rw [stuffed_cons_plain t h]
      have hx : x ≠ ETX := by rintro rfl; exact h (by decide)
      have hd : (x == DLE) = false := by
        simp; rintro rfl; exact h (by decide)
      simp [unescapedEtxAt, hx, hd, ih]

end Sys2Proof.Machine
end

