-- ==== Sys2Proof/Laws/Encoding.lean ====
section
/-! SUPPORT. Big-endian fields, the decoder on encoded sequences, and the operands of the command encoders. -/

namespace Sys2Proof.Machine

open Sys2Proof.Safety

theorem be16_bytes (n : Nat) : be16 n = [BitVec.ofNat 8 (n / 256), BitVec.ofNat 8 (n % 256)] := by
  simp only [be16, List.cons.injEq, and_true, true_and]
  apply BitVec.eq_of_toNat_eq; simp

theorem ofNat_mod_256 (n : Nat) : BitVec.ofNat 8 (n % 256) = BitVec.ofNat 8 n := by
  apply BitVec.eq_of_toNat_eq; simp

theorem be16Value_be16 {n : Nat} (h : n ≤ 65535) (hi lo : Byte) (e : be16 n = [hi, lo]) :
    be16Value hi lo = n := by
  simp [be16] at e
  obtain ⟨rfl, rfl⟩ := e
  simp [be16Value]; omega

theorem decodeSequence_encodeSequence (mk : List Byte → Instr) (d : List Byte) (h : d.length ≤ 65535) :
    decodeSequence mk (encodeSequence d) = .ok (mk d) := by
  have := be16Value_be16 h _ _ rfl
  simp [encodeSequence, be16, decodeSequence, this]

theorem decodeSequence_inversion {mk : List Byte → Instr} {t : List Byte} {i : Instr}
    (h : decodeSequence mk t = .ok i) :
    ∃ d, i = mk d ∧ t = encodeSequence d ∧ d.length ≤ 65535 := by
  unfold decodeSequence at h
  split at h
  · rename_i hi lo d
    split at h
    · rename_i hl
      refine ⟨d, by simpa using h.symm, ?_, ?_⟩
      · simp [encodeSequence, be16, hl, be16Value]
        have := hi.isLt; have := lo.isLt
        constructor <;> apply BitVec.eq_of_toNat_eq <;> simp <;> omega
      · have := hi.isLt; have := lo.isLt
        simp [hl, be16Value]; omega
    · simp at h
  · simp at h

theorem be32Value_roundtrip (w : Word) :
    BitVec.ofNat 32 (be32Value (BitVec.ofNat 8 (w.toNat / 16777216)) (BitVec.ofNat 8 (w.toNat / 65536))
      (BitVec.ofNat 8 (w.toNat / 256)) (BitVec.ofNat 8 w.toNat)) = w := by
  apply BitVec.eq_of_toNat_eq
  simp [be32Value]
  have := w.isLt
  omega

theorem be16Value_roundtrip (w : Half) :
    BitVec.ofNat 16 (be16Value (BitVec.ofNat 8 (w.toNat / 256)) (BitVec.ofNat 8 w.toNat)) = w := by
  apply BitVec.eq_of_toNat_eq
  simp [be16Value]
  have := w.isLt
  omega

theorem length_of_fitsLength {b : List Byte} (h : fitsLength b = true) : b.length ≤ 65535 := by
  simpa [fitsLength] using h

theorem codepageBytes_length {p : Params} :
    ∀ {t : List Char} {e}, codepageBytes p t = some e → e.length = t.length := by
  intro t
  induction t with
  | nil => intro e h; simp [codepageBytes] at h; simp [← h]
  | cons c t ih =>
    intro e h
    simp only [codepageBytes] at h
    split at h
    · rename_i b r h1 h2
      obtain rfl := Option.some.inj h
      simp [ih h2]
    · simp at h

theorem runBytes_length {p : Params} :
    ∀ {t : List StyledRun} {e}, runBytes p t = some e → e.length = (Text.styled t).encodedLength := by
  intro t
  induction t with
  | nil => intro e h; simp [runBytes] at h; simp [← h, Text.encodedLength]
  | cons c t ih =>
    intro e h
    simp only [runBytes] at h
    split at h
    · rename_i a b r h1 h2 h3
      obtain rfl := Option.some.inj h
      have := ih h3
      have := codepageBytes_length h2
      simp [Text.encodedLength] at *
      omega
    · simp at h

theorem encodedText_length {p : Params} {t : Text} {e} (h : encodedText p t = some e) :
    e.length = t.encodedLength := by
  cases t with
  | plain t => exact codepageBytes_length h
  | styled r => exact runBytes_length h

theorem pairBytes_length :
    ∀ {t : List (Int × Int)} {e}, pairBytes t = some e → e.length = 2 * t.length := by
  intro t
  induction t with
  | nil => intro e h; simp [pairBytes] at h; simp [← h]
  | cons c t ih =>
    intro e h
    obtain ⟨x, y⟩ := c
    simp only [pairBytes] at h
    split at h
    · rename_i a b r h1 h2 h3
      obtain rfl := Option.some.inj h
      have := ih h3
      simp; omega
    · simp at h

theorem halfOperand_length {v : Int} {b} (h : halfOperand v = some b) : b.length = 2 := by
  unfold halfOperand at h; split at h <;> simp at h; simp [← h, be16]

theorem clockDigits_length {p} {v : Int} {b} (h : clockDigits p v = some b) : b.length = 2 := by
  unfold clockDigits at h
  split at h
  · cases hd : p.clockDigitOrder <;> simp [hd] at h <;> simp [← h]
  · simp at h

theorem byteOperand_ofNat {n : Nat} (h : n ≤ 255) :
    byteOperand (n : Int) = some (BitVec.ofNat 8 n) := by
  unfold byteOperand; rw [if_pos (by omega)]; simp

theorem halfOperand_ofNat {n : Nat} (h : n ≤ 65535) :
    halfOperand (n : Int) = some [BitVec.ofNat 8 (n / 256), BitVec.ofNat 8 (n % 256)] := by
  unfold halfOperand; rw [if_pos (by omega)]; simp [be16_bytes]

theorem byteOperand_out_of_range {v : Int} (h : ¬ (0 ≤ v ∧ v ≤ 255)) : byteOperand v = none := by
  unfold byteOperand; rw [if_neg h]

theorem halfOperand_out_of_range {v : Int} (h : ¬ (0 ≤ v ∧ v ≤ 65535)) : halfOperand v = none := by
  unfold halfOperand; rw [if_neg h]

theorem clockDigits_out_of_range {p} {v : Int} (h : ¬ (0 ≤ v ∧ v ≤ 99)) : clockDigits p v = none := by
  unfold clockDigits; rw [if_neg h]

end Sys2Proof.Machine
end

