-- ==== Sys2Proof/Laws/State.lean ====
section
/-! SUPPORT. What each single update of State leaves in each field: one lemma per field per update. -/

namespace Sys2Proof.Machine

@[simp] theorem setPhase_params (p : Phase) (s : State) : (setPhase p s).params = s.params := rfl
@[simp] theorem setPhase_opState (p : Phase) (s : State) : (setPhase p s).opState = s.opState := rfl
@[simp] theorem setPhase_te (p : Phase) (s : State) : (setPhase p s).te = s.te := rfl
@[simp] theorem setPhase_addr (p : Phase) (s : State) : (setPhase p s).addr = s.addr := rfl
@[simp] theorem setPhase_baud (p : Phase) (s : State) : (setPhase p s).baud = s.baud := rfl
@[simp] theorem setPhase_ctrl (p : Phase) (s : State) : (setPhase p s).ctrl = s.ctrl := rfl
@[simp] theorem setPhase_settle (p : Phase) (s : State) : (setPhase p s).settle = s.settle := rfl
@[simp] theorem setPhase_lastErr (p : Phase) (s : State) : (setPhase p s).lastErr = s.lastErr := rfl
@[simp] theorem setPhase_phase (p : Phase) (s : State) : (setPhase p s).phase = p := rfl
@[simp] theorem setPhase_handle (p : Phase) (s : State) : (setPhase p s).handle = s.handle := rfl
@[simp] theorem setPhase_trace (p : Phase) (s : State) : (setPhase p s).trace = s.trace := rfl
@[simp] theorem setPhase_outBuf (p : Phase) (s : State) : (setPhase p s).outBuf = s.outBuf := rfl
@[simp] theorem setPhase_teLine (p : Phase) (s : State) : (setPhase p s).teLine = s.teLine := rfl
@[simp] theorem setPhase_waitingOn (p : Phase) (s : State) : (setPhase p s).waitingOn = s.waitingOn := rfl
@[simp] theorem setPhase_inputs (p : Phase) (s : State) : (setPhase p s).inputs = s.inputs := rfl
@[simp] theorem setPhase_hostLog (p : Phase) (s : State) : (setPhase p s).hostLog = s.hostLog := rfl
@[simp] theorem setPhase_draws (p : Phase) (s : State) : (setPhase p s).draws = s.draws := rfl
@[simp] theorem setPhase_drawn (p : Phase) (s : State) : (setPhase p s).drawn = s.drawn := rfl
@[simp] theorem setPhase_gaps (p : Phase) (s : State) : (setPhase p s).gaps = s.gaps := rfl
@[simp] theorem setPhase_gapsTaken (p : Phase) (s : State) : (setPhase p s).gapsTaken = s.gapsTaken := rfl

@[simp] theorem setOpState_params (o : OpState) (s : State) : (setOpState o s).params = s.params := rfl
@[simp] theorem setOpState_opState (o : OpState) (s : State) : (setOpState o s).opState = o := rfl
@[simp] theorem setOpState_te (o : OpState) (s : State) : (setOpState o s).te = s.te := rfl
@[simp] theorem setOpState_addr (o : OpState) (s : State) : (setOpState o s).addr = s.addr := rfl
@[simp] theorem setOpState_baud (o : OpState) (s : State) : (setOpState o s).baud = s.baud := rfl
@[simp] theorem setOpState_ctrl (o : OpState) (s : State) : (setOpState o s).ctrl = s.ctrl := rfl
@[simp] theorem setOpState_settle (o : OpState) (s : State) : (setOpState o s).settle = s.settle := rfl
@[simp] theorem setOpState_lastErr (o : OpState) (s : State) : (setOpState o s).lastErr = s.lastErr := rfl
@[simp] theorem setOpState_phase (o : OpState) (s : State) : (setOpState o s).phase = s.phase := rfl
@[simp] theorem setOpState_handle (o : OpState) (s : State) : (setOpState o s).handle = s.handle := rfl
@[simp] theorem setOpState_trace (o : OpState) (s : State) : (setOpState o s).trace = s.trace := rfl
@[simp] theorem setOpState_outBuf (o : OpState) (s : State) : (setOpState o s).outBuf = s.outBuf := rfl
@[simp] theorem setOpState_teLine (o : OpState) (s : State) : (setOpState o s).teLine = s.teLine := rfl
@[simp] theorem setOpState_waitingOn (o : OpState) (s : State) : (setOpState o s).waitingOn = s.waitingOn := rfl
@[simp] theorem setOpState_inputs (o : OpState) (s : State) : (setOpState o s).inputs = s.inputs := rfl
@[simp] theorem setOpState_hostLog (o : OpState) (s : State) : (setOpState o s).hostLog = s.hostLog := rfl
@[simp] theorem setOpState_draws (o : OpState) (s : State) : (setOpState o s).draws = s.draws := rfl
@[simp] theorem setOpState_drawn (o : OpState) (s : State) : (setOpState o s).drawn = s.drawn := rfl
@[simp] theorem setOpState_gaps (o : OpState) (s : State) : (setOpState o s).gaps = s.gaps := rfl
@[simp] theorem setOpState_gapsTaken (o : OpState) (s : State) : (setOpState o s).gapsTaken = s.gapsTaken := rfl

@[simp] theorem setTe_params (x y : Bool) (s : State) : (setTe x y s).params = s.params := rfl
@[simp] theorem setTe_opState (x y : Bool) (s : State) : (setTe x y s).opState = s.opState := rfl
@[simp] theorem setTe_te (x y : Bool) (s : State) : (setTe x y s).te = x := rfl
@[simp] theorem setTe_addr (x y : Bool) (s : State) : (setTe x y s).addr = s.addr := rfl
@[simp] theorem setTe_baud (x y : Bool) (s : State) : (setTe x y s).baud = s.baud := rfl
@[simp] theorem setTe_ctrl (x y : Bool) (s : State) : (setTe x y s).ctrl = s.ctrl := rfl
@[simp] theorem setTe_settle (x y : Bool) (s : State) : (setTe x y s).settle = s.settle := rfl
@[simp] theorem setTe_lastErr (x y : Bool) (s : State) : (setTe x y s).lastErr = s.lastErr := rfl
@[simp] theorem setTe_phase (x y : Bool) (s : State) : (setTe x y s).phase = s.phase := rfl
@[simp] theorem setTe_handle (x y : Bool) (s : State) : (setTe x y s).handle = s.handle := rfl
@[simp] theorem setTe_trace (x y : Bool) (s : State) : (setTe x y s).trace = s.trace := rfl
@[simp] theorem setTe_outBuf (x y : Bool) (s : State) : (setTe x y s).outBuf = s.outBuf := rfl
@[simp] theorem setTe_teLine (x y : Bool) (s : State) : (setTe x y s).teLine = y := rfl
@[simp] theorem setTe_waitingOn (x y : Bool) (s : State) : (setTe x y s).waitingOn = s.waitingOn := rfl
@[simp] theorem setTe_inputs (x y : Bool) (s : State) : (setTe x y s).inputs = s.inputs := rfl
@[simp] theorem setTe_hostLog (x y : Bool) (s : State) : (setTe x y s).hostLog = s.hostLog := rfl
@[simp] theorem setTe_draws (x y : Bool) (s : State) : (setTe x y s).draws = s.draws := rfl
@[simp] theorem setTe_drawn (x y : Bool) (s : State) : (setTe x y s).drawn = s.drawn := rfl
@[simp] theorem setTe_gaps (x y : Bool) (s : State) : (setTe x y s).gaps = s.gaps := rfl
@[simp] theorem setTe_gapsTaken (x y : Bool) (s : State) : (setTe x y s).gapsTaken = s.gapsTaken := rfl

@[simp] theorem setLine_params (y : Bool) (s : State) : (setLine y s).params = s.params := rfl
@[simp] theorem setLine_opState (y : Bool) (s : State) : (setLine y s).opState = s.opState := rfl
@[simp] theorem setLine_te (y : Bool) (s : State) : (setLine y s).te = s.te := rfl
@[simp] theorem setLine_addr (y : Bool) (s : State) : (setLine y s).addr = s.addr := rfl
@[simp] theorem setLine_baud (y : Bool) (s : State) : (setLine y s).baud = s.baud := rfl
@[simp] theorem setLine_ctrl (y : Bool) (s : State) : (setLine y s).ctrl = s.ctrl := rfl
@[simp] theorem setLine_settle (y : Bool) (s : State) : (setLine y s).settle = s.settle := rfl
@[simp] theorem setLine_lastErr (y : Bool) (s : State) : (setLine y s).lastErr = s.lastErr := rfl
@[simp] theorem setLine_phase (y : Bool) (s : State) : (setLine y s).phase = s.phase := rfl
@[simp] theorem setLine_handle (y : Bool) (s : State) : (setLine y s).handle = s.handle := rfl
@[simp] theorem setLine_trace (y : Bool) (s : State) : (setLine y s).trace = s.trace := rfl
@[simp] theorem setLine_outBuf (y : Bool) (s : State) : (setLine y s).outBuf = s.outBuf := rfl
@[simp] theorem setLine_teLine (y : Bool) (s : State) : (setLine y s).teLine = y := rfl
@[simp] theorem setLine_waitingOn (y : Bool) (s : State) : (setLine y s).waitingOn = s.waitingOn := rfl
@[simp] theorem setLine_inputs (y : Bool) (s : State) : (setLine y s).inputs = s.inputs := rfl
@[simp] theorem setLine_hostLog (y : Bool) (s : State) : (setLine y s).hostLog = s.hostLog := rfl
@[simp] theorem setLine_draws (y : Bool) (s : State) : (setLine y s).draws = s.draws := rfl
@[simp] theorem setLine_drawn (y : Bool) (s : State) : (setLine y s).drawn = s.drawn := rfl
@[simp] theorem setLine_gaps (y : Bool) (s : State) : (setLine y s).gaps = s.gaps := rfl
@[simp] theorem setLine_gapsTaken (y : Bool) (s : State) : (setLine y s).gapsTaken = s.gapsTaken := rfl

@[simp] theorem setHandle_params (h : Option Handle) (s : State) : (setHandle h s).params = s.params := rfl
@[simp] theorem setHandle_opState (h : Option Handle) (s : State) : (setHandle h s).opState = s.opState := rfl
@[simp] theorem setHandle_te (h : Option Handle) (s : State) : (setHandle h s).te = s.te := rfl
@[simp] theorem setHandle_addr (h : Option Handle) (s : State) : (setHandle h s).addr = s.addr := rfl
@[simp] theorem setHandle_baud (h : Option Handle) (s : State) : (setHandle h s).baud = s.baud := rfl
@[simp] theorem setHandle_ctrl (h : Option Handle) (s : State) : (setHandle h s).ctrl = s.ctrl := rfl
@[simp] theorem setHandle_settle (h : Option Handle) (s : State) : (setHandle h s).settle = s.settle := rfl
@[simp] theorem setHandle_lastErr (h : Option Handle) (s : State) : (setHandle h s).lastErr = s.lastErr := rfl
@[simp] theorem setHandle_phase (h : Option Handle) (s : State) : (setHandle h s).phase = s.phase := rfl
@[simp] theorem setHandle_handle (h : Option Handle) (s : State) : (setHandle h s).handle = h := rfl
@[simp] theorem setHandle_trace (h : Option Handle) (s : State) : (setHandle h s).trace = s.trace := rfl
@[simp] theorem setHandle_outBuf (h : Option Handle) (s : State) : (setHandle h s).outBuf = s.outBuf := rfl
@[simp] theorem setHandle_teLine (h : Option Handle) (s : State) : (setHandle h s).teLine = s.teLine := rfl
@[simp] theorem setHandle_waitingOn (h : Option Handle) (s : State) : (setHandle h s).waitingOn = s.waitingOn := rfl
@[simp] theorem setHandle_inputs (h : Option Handle) (s : State) : (setHandle h s).inputs = s.inputs := rfl
@[simp] theorem setHandle_hostLog (h : Option Handle) (s : State) : (setHandle h s).hostLog = s.hostLog := rfl
@[simp] theorem setHandle_draws (h : Option Handle) (s : State) : (setHandle h s).draws = s.draws := rfl
@[simp] theorem setHandle_drawn (h : Option Handle) (s : State) : (setHandle h s).drawn = s.drawn := rfl
@[simp] theorem setHandle_gaps (h : Option Handle) (s : State) : (setHandle h s).gaps = s.gaps := rfl
@[simp] theorem setHandle_gapsTaken (h : Option Handle) (s : State) : (setHandle h s).gapsTaken = s.gapsTaken := rfl

@[simp] theorem setConfig_params (a : Byte) (b : Word) (c : Byte) (m : Half) (s : State) : (setConfig a b c m s).params = s.params := rfl
@[simp] theorem setConfig_opState (a : Byte) (b : Word) (c : Byte) (m : Half) (s : State) : (setConfig a b c m s).opState = s.opState := rfl
@[simp] theorem setConfig_te (a : Byte) (b : Word) (c : Byte) (m : Half) (s : State) : (setConfig a b c m s).te = s.te := rfl
@[simp] theorem setConfig_addr (a : Byte) (b : Word) (c : Byte) (m : Half) (s : State) : (setConfig a b c m s).addr = a := rfl
@[simp] theorem setConfig_baud (a : Byte) (b : Word) (c : Byte) (m : Half) (s : State) : (setConfig a b c m s).baud = b := rfl
@[simp] theorem setConfig_ctrl (a : Byte) (b : Word) (c : Byte) (m : Half) (s : State) : (setConfig a b c m s).ctrl = c := rfl
@[simp] theorem setConfig_settle (a : Byte) (b : Word) (c : Byte) (m : Half) (s : State) : (setConfig a b c m s).settle = m := rfl
@[simp] theorem setConfig_lastErr (a : Byte) (b : Word) (c : Byte) (m : Half) (s : State) : (setConfig a b c m s).lastErr = s.lastErr := rfl
@[simp] theorem setConfig_phase (a : Byte) (b : Word) (c : Byte) (m : Half) (s : State) : (setConfig a b c m s).phase = s.phase := rfl
@[simp] theorem setConfig_handle (a : Byte) (b : Word) (c : Byte) (m : Half) (s : State) : (setConfig a b c m s).handle = s.handle := rfl
@[simp] theorem setConfig_trace (a : Byte) (b : Word) (c : Byte) (m : Half) (s : State) : (setConfig a b c m s).trace = s.trace := rfl
@[simp] theorem setConfig_outBuf (a : Byte) (b : Word) (c : Byte) (m : Half) (s : State) : (setConfig a b c m s).outBuf = s.outBuf := rfl
@[simp] theorem setConfig_teLine (a : Byte) (b : Word) (c : Byte) (m : Half) (s : State) : (setConfig a b c m s).teLine = s.teLine := rfl
@[simp] theorem setConfig_waitingOn (a : Byte) (b : Word) (c : Byte) (m : Half) (s : State) : (setConfig a b c m s).waitingOn = s.waitingOn := rfl
@[simp] theorem setConfig_inputs (a : Byte) (b : Word) (c : Byte) (m : Half) (s : State) : (setConfig a b c m s).inputs = s.inputs := rfl
@[simp] theorem setConfig_hostLog (a : Byte) (b : Word) (c : Byte) (m : Half) (s : State) : (setConfig a b c m s).hostLog = s.hostLog := rfl
@[simp] theorem setConfig_draws (a : Byte) (b : Word) (c : Byte) (m : Half) (s : State) : (setConfig a b c m s).draws = s.draws := rfl
@[simp] theorem setConfig_drawn (a : Byte) (b : Word) (c : Byte) (m : Half) (s : State) : (setConfig a b c m s).drawn = s.drawn := rfl
@[simp] theorem setConfig_gaps (a : Byte) (b : Word) (c : Byte) (m : Half) (s : State) : (setConfig a b c m s).gaps = s.gaps := rfl
@[simp] theorem setConfig_gapsTaken (a : Byte) (b : Word) (c : Byte) (m : Half) (s : State) : (setConfig a b c m s).gapsTaken = s.gapsTaken := rfl

@[simp] theorem setLastErr_params (e : Status) (s : State) : (setLastErr e s).params = s.params := rfl
@[simp] theorem setLastErr_opState (e : Status) (s : State) : (setLastErr e s).opState = s.opState := rfl
@[simp] theorem setLastErr_te (e : Status) (s : State) : (setLastErr e s).te = s.te := rfl
@[simp] theorem setLastErr_addr (e : Status) (s : State) : (setLastErr e s).addr = s.addr := rfl
@[simp] theorem setLastErr_baud (e : Status) (s : State) : (setLastErr e s).baud = s.baud := rfl
@[simp] theorem setLastErr_ctrl (e : Status) (s : State) : (setLastErr e s).ctrl = s.ctrl := rfl
@[simp] theorem setLastErr_settle (e : Status) (s : State) : (setLastErr e s).settle = s.settle := rfl
@[simp] theorem setLastErr_lastErr (e : Status) (s : State) : (setLastErr e s).lastErr = e := rfl
@[simp] theorem setLastErr_phase (e : Status) (s : State) : (setLastErr e s).phase = s.phase := rfl
@[simp] theorem setLastErr_handle (e : Status) (s : State) : (setLastErr e s).handle = s.handle := rfl
@[simp] theorem setLastErr_trace (e : Status) (s : State) : (setLastErr e s).trace = s.trace := rfl
@[simp] theorem setLastErr_outBuf (e : Status) (s : State) : (setLastErr e s).outBuf = s.outBuf := rfl
@[simp] theorem setLastErr_teLine (e : Status) (s : State) : (setLastErr e s).teLine = s.teLine := rfl
@[simp] theorem setLastErr_waitingOn (e : Status) (s : State) : (setLastErr e s).waitingOn = s.waitingOn := rfl
@[simp] theorem setLastErr_inputs (e : Status) (s : State) : (setLastErr e s).inputs = s.inputs := rfl
@[simp] theorem setLastErr_hostLog (e : Status) (s : State) : (setLastErr e s).hostLog = s.hostLog := rfl
@[simp] theorem setLastErr_draws (e : Status) (s : State) : (setLastErr e s).draws = s.draws := rfl
@[simp] theorem setLastErr_drawn (e : Status) (s : State) : (setLastErr e s).drawn = s.drawn := rfl
@[simp] theorem setLastErr_gaps (e : Status) (s : State) : (setLastErr e s).gaps = s.gaps := rfl
@[simp] theorem setLastErr_gapsTaken (e : Status) (s : State) : (setLastErr e s).gapsTaken = s.gapsTaken := rfl

@[simp] theorem record_params (e : Event) (s : State) : (record e s).params = s.params := rfl
@[simp] theorem record_opState (e : Event) (s : State) : (record e s).opState = s.opState := rfl
@[simp] theorem record_te (e : Event) (s : State) : (record e s).te = s.te := rfl
@[simp] theorem record_addr (e : Event) (s : State) : (record e s).addr = s.addr := rfl
@[simp] theorem record_baud (e : Event) (s : State) : (record e s).baud = s.baud := rfl
@[simp] theorem record_ctrl (e : Event) (s : State) : (record e s).ctrl = s.ctrl := rfl
@[simp] theorem record_settle (e : Event) (s : State) : (record e s).settle = s.settle := rfl
@[simp] theorem record_lastErr (e : Event) (s : State) : (record e s).lastErr = s.lastErr := rfl
@[simp] theorem record_phase (e : Event) (s : State) : (record e s).phase = s.phase := rfl
@[simp] theorem record_handle (e : Event) (s : State) : (record e s).handle = s.handle := rfl
@[simp] theorem record_trace (e : Event) (s : State) : (record e s).trace = s.trace ++ [e] := rfl
@[simp] theorem record_outBuf (e : Event) (s : State) : (record e s).outBuf = s.outBuf := rfl
@[simp] theorem record_teLine (e : Event) (s : State) : (record e s).teLine = s.teLine := rfl
@[simp] theorem record_waitingOn (e : Event) (s : State) : (record e s).waitingOn = s.waitingOn := rfl
@[simp] theorem record_inputs (e : Event) (s : State) : (record e s).inputs = s.inputs := rfl
@[simp] theorem record_hostLog (e : Event) (s : State) : (record e s).hostLog = s.hostLog := rfl
@[simp] theorem record_draws (e : Event) (s : State) : (record e s).draws = s.draws := rfl
@[simp] theorem record_drawn (e : Event) (s : State) : (record e s).drawn = s.drawn := rfl
@[simp] theorem record_gaps (e : Event) (s : State) : (record e s).gaps = s.gaps := rfl
@[simp] theorem record_gapsTaken (e : Event) (s : State) : (record e s).gapsTaken = s.gapsTaken := rfl

@[simp] theorem tellHost_params (e : HostEvent) (s : State) : (tellHost e s).params = s.params := rfl
@[simp] theorem tellHost_opState (e : HostEvent) (s : State) : (tellHost e s).opState = s.opState := rfl
@[simp] theorem tellHost_te (e : HostEvent) (s : State) : (tellHost e s).te = s.te := rfl
@[simp] theorem tellHost_addr (e : HostEvent) (s : State) : (tellHost e s).addr = s.addr := rfl
@[simp] theorem tellHost_baud (e : HostEvent) (s : State) : (tellHost e s).baud = s.baud := rfl
@[simp] theorem tellHost_ctrl (e : HostEvent) (s : State) : (tellHost e s).ctrl = s.ctrl := rfl
@[simp] theorem tellHost_settle (e : HostEvent) (s : State) : (tellHost e s).settle = s.settle := rfl
@[simp] theorem tellHost_lastErr (e : HostEvent) (s : State) : (tellHost e s).lastErr = s.lastErr := rfl
@[simp] theorem tellHost_phase (e : HostEvent) (s : State) : (tellHost e s).phase = s.phase := rfl
@[simp] theorem tellHost_handle (e : HostEvent) (s : State) : (tellHost e s).handle = s.handle := rfl
@[simp] theorem tellHost_trace (e : HostEvent) (s : State) : (tellHost e s).trace = s.trace := rfl
@[simp] theorem tellHost_outBuf (e : HostEvent) (s : State) : (tellHost e s).outBuf = s.outBuf := rfl
@[simp] theorem tellHost_teLine (e : HostEvent) (s : State) : (tellHost e s).teLine = s.teLine := rfl
@[simp] theorem tellHost_waitingOn (e : HostEvent) (s : State) : (tellHost e s).waitingOn = s.waitingOn := rfl
@[simp] theorem tellHost_inputs (e : HostEvent) (s : State) : (tellHost e s).inputs = s.inputs := rfl
@[simp] theorem tellHost_hostLog (e : HostEvent) (s : State) : (tellHost e s).hostLog = s.hostLog ++ [e] := rfl
@[simp] theorem tellHost_draws (e : HostEvent) (s : State) : (tellHost e s).draws = s.draws := rfl
@[simp] theorem tellHost_drawn (e : HostEvent) (s : State) : (tellHost e s).drawn = s.drawn := rfl
@[simp] theorem tellHost_gaps (e : HostEvent) (s : State) : (tellHost e s).gaps = s.gaps := rfl
@[simp] theorem tellHost_gapsTaken (e : HostEvent) (s : State) : (tellHost e s).gapsTaken = s.gapsTaken := rfl

@[simp] theorem setOutBuf_params (b : List Byte) (s : State) : (setOutBuf b s).params = s.params := rfl
@[simp] theorem setOutBuf_opState (b : List Byte) (s : State) : (setOutBuf b s).opState = s.opState := rfl
@[simp] theorem setOutBuf_te (b : List Byte) (s : State) : (setOutBuf b s).te = s.te := rfl
@[simp] theorem setOutBuf_addr (b : List Byte) (s : State) : (setOutBuf b s).addr = s.addr := rfl
@[simp] theorem setOutBuf_baud (b : List Byte) (s : State) : (setOutBuf b s).baud = s.baud := rfl
@[simp] theorem setOutBuf_ctrl (b : List Byte) (s : State) : (setOutBuf b s).ctrl = s.ctrl := rfl
@[simp] theorem setOutBuf_settle (b : List Byte) (s : State) : (setOutBuf b s).settle = s.settle := rfl
@[simp] theorem setOutBuf_lastErr (b : List Byte) (s : State) : (setOutBuf b s).lastErr = s.lastErr := rfl
@[simp] theorem setOutBuf_phase (b : List Byte) (s : State) : (setOutBuf b s).phase = s.phase := rfl
@[simp] theorem setOutBuf_handle (b : List Byte) (s : State) : (setOutBuf b s).handle = s.handle := rfl
@[simp] theorem setOutBuf_trace (b : List Byte) (s : State) : (setOutBuf b s).trace = s.trace := rfl
@[simp] theorem setOutBuf_outBuf (b : List Byte) (s : State) : (setOutBuf b s).outBuf = b := rfl
@[simp] theorem setOutBuf_teLine (b : List Byte) (s : State) : (setOutBuf b s).teLine = s.teLine := rfl
@[simp] theorem setOutBuf_waitingOn (b : List Byte) (s : State) : (setOutBuf b s).waitingOn = s.waitingOn := rfl
@[simp] theorem setOutBuf_inputs (b : List Byte) (s : State) : (setOutBuf b s).inputs = s.inputs := rfl
@[simp] theorem setOutBuf_hostLog (b : List Byte) (s : State) : (setOutBuf b s).hostLog = s.hostLog := rfl
@[simp] theorem setOutBuf_draws (b : List Byte) (s : State) : (setOutBuf b s).draws = s.draws := rfl
@[simp] theorem setOutBuf_drawn (b : List Byte) (s : State) : (setOutBuf b s).drawn = s.drawn := rfl
@[simp] theorem setOutBuf_gaps (b : List Byte) (s : State) : (setOutBuf b s).gaps = s.gaps := rfl
@[simp] theorem setOutBuf_gapsTaken (b : List Byte) (s : State) : (setOutBuf b s).gapsTaken = s.gapsTaken := rfl

@[simp] theorem hang_params (c : PendingCall) (s : State) : (hang c s).params = s.params := rfl
@[simp] theorem hang_opState (c : PendingCall) (s : State) : (hang c s).opState = s.opState := rfl
@[simp] theorem hang_te (c : PendingCall) (s : State) : (hang c s).te = s.te := rfl
@[simp] theorem hang_addr (c : PendingCall) (s : State) : (hang c s).addr = s.addr := rfl
@[simp] theorem hang_baud (c : PendingCall) (s : State) : (hang c s).baud = s.baud := rfl
@[simp] theorem hang_ctrl (c : PendingCall) (s : State) : (hang c s).ctrl = s.ctrl := rfl
@[simp] theorem hang_settle (c : PendingCall) (s : State) : (hang c s).settle = s.settle := rfl
@[simp] theorem hang_lastErr (c : PendingCall) (s : State) : (hang c s).lastErr = s.lastErr := rfl
@[simp] theorem hang_phase (c : PendingCall) (s : State) : (hang c s).phase = s.phase := rfl
@[simp] theorem hang_handle (c : PendingCall) (s : State) : (hang c s).handle = s.handle := rfl
@[simp] theorem hang_trace (c : PendingCall) (s : State) : (hang c s).trace = s.trace := rfl
@[simp] theorem hang_outBuf (c : PendingCall) (s : State) : (hang c s).outBuf = s.outBuf := rfl
@[simp] theorem hang_teLine (c : PendingCall) (s : State) : (hang c s).teLine = s.teLine := rfl
@[simp] theorem hang_waitingOn (c : PendingCall) (s : State) : (hang c s).waitingOn = some c := rfl
@[simp] theorem hang_inputs (c : PendingCall) (s : State) : (hang c s).inputs = s.inputs := rfl
@[simp] theorem hang_hostLog (c : PendingCall) (s : State) : (hang c s).hostLog = s.hostLog := rfl
@[simp] theorem hang_draws (c : PendingCall) (s : State) : (hang c s).draws = s.draws := rfl
@[simp] theorem hang_drawn (c : PendingCall) (s : State) : (hang c s).drawn = s.drawn := rfl
@[simp] theorem hang_gaps (c : PendingCall) (s : State) : (hang c s).gaps = s.gaps := rfl
@[simp] theorem hang_gapsTaken (c : PendingCall) (s : State) : (hang c s).gapsTaken = s.gapsTaken := rfl

@[simp] theorem setInputs_params (q : List HostItem) (s : State) : (setInputs q s).params = s.params := rfl
@[simp] theorem setInputs_opState (q : List HostItem) (s : State) : (setInputs q s).opState = s.opState := rfl
@[simp] theorem setInputs_te (q : List HostItem) (s : State) : (setInputs q s).te = s.te := rfl
@[simp] theorem setInputs_addr (q : List HostItem) (s : State) : (setInputs q s).addr = s.addr := rfl
@[simp] theorem setInputs_baud (q : List HostItem) (s : State) : (setInputs q s).baud = s.baud := rfl
@[simp] theorem setInputs_ctrl (q : List HostItem) (s : State) : (setInputs q s).ctrl = s.ctrl := rfl
@[simp] theorem setInputs_settle (q : List HostItem) (s : State) : (setInputs q s).settle = s.settle := rfl
@[simp] theorem setInputs_lastErr (q : List HostItem) (s : State) : (setInputs q s).lastErr = s.lastErr := rfl
@[simp] theorem setInputs_phase (q : List HostItem) (s : State) : (setInputs q s).phase = s.phase := rfl
@[simp] theorem setInputs_handle (q : List HostItem) (s : State) : (setInputs q s).handle = s.handle := rfl
@[simp] theorem setInputs_trace (q : List HostItem) (s : State) : (setInputs q s).trace = s.trace := rfl
@[simp] theorem setInputs_outBuf (q : List HostItem) (s : State) : (setInputs q s).outBuf = s.outBuf := rfl
@[simp] theorem setInputs_teLine (q : List HostItem) (s : State) : (setInputs q s).teLine = s.teLine := rfl
@[simp] theorem setInputs_waitingOn (q : List HostItem) (s : State) : (setInputs q s).waitingOn = s.waitingOn := rfl
@[simp] theorem setInputs_inputs (q : List HostItem) (s : State) : (setInputs q s).inputs = q := rfl
@[simp] theorem setInputs_hostLog (q : List HostItem) (s : State) : (setInputs q s).hostLog = s.hostLog := rfl
@[simp] theorem setInputs_draws (q : List HostItem) (s : State) : (setInputs q s).draws = s.draws := rfl
@[simp] theorem setInputs_drawn (q : List HostItem) (s : State) : (setInputs q s).drawn = s.drawn := rfl
@[simp] theorem setInputs_gaps (q : List HostItem) (s : State) : (setInputs q s).gaps = s.gaps := rfl
@[simp] theorem setInputs_gapsTaken (q : List HostItem) (s : State) : (setInputs q s).gapsTaken = s.gapsTaken := rfl

@[simp] theorem consume_params (s : State) : (consume s).params = s.params := rfl
@[simp] theorem consume_opState (s : State) : (consume s).opState = s.opState := rfl
@[simp] theorem consume_te (s : State) : (consume s).te = s.te := rfl
@[simp] theorem consume_addr (s : State) : (consume s).addr = s.addr := rfl
@[simp] theorem consume_baud (s : State) : (consume s).baud = s.baud := rfl
@[simp] theorem consume_ctrl (s : State) : (consume s).ctrl = s.ctrl := rfl
@[simp] theorem consume_settle (s : State) : (consume s).settle = s.settle := rfl
@[simp] theorem consume_lastErr (s : State) : (consume s).lastErr = s.lastErr := rfl
@[simp] theorem consume_phase (s : State) : (consume s).phase = s.phase := rfl
@[simp] theorem consume_handle (s : State) : (consume s).handle = s.handle := rfl
@[simp] theorem consume_trace (s : State) : (consume s).trace = s.trace := rfl
@[simp] theorem consume_outBuf (s : State) : (consume s).outBuf = s.outBuf := rfl
@[simp] theorem consume_teLine (s : State) : (consume s).teLine = s.teLine := rfl
@[simp] theorem consume_waitingOn (s : State) : (consume s).waitingOn = s.waitingOn := rfl
@[simp] theorem consume_inputs (s : State) : (consume s).inputs = s.inputs := rfl
@[simp] theorem consume_hostLog (s : State) : (consume s).hostLog = s.hostLog := rfl
@[simp] theorem consume_draws (s : State) : (consume s).draws = s.draws.tail := rfl
@[simp] theorem consume_drawn (s : State) : (consume s).drawn = s.drawn + 1 := rfl
@[simp] theorem consume_gaps (s : State) : (consume s).gaps = s.gaps := rfl
@[simp] theorem consume_gapsTaken (s : State) : (consume s).gapsTaken = s.gapsTaken := rfl

@[simp] theorem passTime_params (s : State) : (passTime s).params = s.params := rfl
@[simp] theorem passTime_opState (s : State) : (passTime s).opState = s.opState := rfl
@[simp] theorem passTime_te (s : State) : (passTime s).te = s.te := rfl
@[simp] theorem passTime_addr (s : State) : (passTime s).addr = s.addr := rfl
@[simp] theorem passTime_baud (s : State) : (passTime s).baud = s.baud := rfl
@[simp] theorem passTime_ctrl (s : State) : (passTime s).ctrl = s.ctrl := rfl
@[simp] theorem passTime_settle (s : State) : (passTime s).settle = s.settle := rfl
@[simp] theorem passTime_lastErr (s : State) : (passTime s).lastErr = s.lastErr := rfl
@[simp] theorem passTime_phase (s : State) : (passTime s).phase = s.phase := rfl
@[simp] theorem passTime_handle (s : State) : (passTime s).handle = s.handle := rfl
@[simp] theorem passTime_trace (s : State) : (passTime s).trace = s.trace := rfl
@[simp] theorem passTime_outBuf (s : State) : (passTime s).outBuf = s.outBuf.drop (nextGap s) := rfl
@[simp] theorem passTime_teLine (s : State) : (passTime s).teLine = s.teLine := rfl
@[simp] theorem passTime_waitingOn (s : State) : (passTime s).waitingOn = s.waitingOn := rfl
@[simp] theorem passTime_inputs (s : State) : (passTime s).inputs = s.inputs := rfl
@[simp] theorem passTime_hostLog (s : State) : (passTime s).hostLog = s.hostLog := rfl
@[simp] theorem passTime_draws (s : State) : (passTime s).draws = s.draws := rfl
@[simp] theorem passTime_drawn (s : State) : (passTime s).drawn = s.drawn := rfl
@[simp] theorem passTime_gaps (s : State) : (passTime s).gaps = s.gaps.tail := rfl
@[simp] theorem passTime_gapsTaken (s : State) : (passTime s).gapsTaken = s.gapsTaken + 1 := rfl

end Sys2Proof.Machine
end

