-- ==== Sys2Proof/Laws/Ops.lean ====
section
/-! SUPPORT. What each shared operation can do, said once: the draws, the four transport calls and the wait,
responses and errors, and the frame that every link operation keeps. -/

namespace Sys2Proof.Machine

/-! ### Draws -/

@[simp] theorem drawAt_setPhase (p : Phase) (s : State) (n : Nat) : drawAt (setPhase p s) n = drawAt s n := rfl
@[simp] theorem drawAt_setOpState (o : OpState) (s : State) (n : Nat) : drawAt (setOpState o s) n = drawAt s n := rfl
@[simp] theorem drawAt_setTe (x y : Bool) (s : State) (n : Nat) : drawAt (setTe x y s) n = drawAt s n := rfl
@[simp] theorem drawAt_setLine (y : Bool) (s : State) (n : Nat) : drawAt (setLine y s) n = drawAt s n := rfl
@[simp] theorem drawAt_setHandle (h : Option Handle) (s : State) (n : Nat) : drawAt (setHandle h s) n = drawAt s n := rfl
@[simp] theorem drawAt_setConfig (a : Byte) (b : Word) (c : Byte) (m : Half) (s : State) (n : Nat) : drawAt (setConfig a b c m s) n = drawAt s n := rfl
@[simp] theorem drawAt_setLastErr (e : Status) (s : State) (n : Nat) : drawAt (setLastErr e s) n = drawAt s n := rfl
@[simp] theorem drawAt_record (e : Event) (s : State) (n : Nat) : drawAt (record e s) n = drawAt s n := rfl
@[simp] theorem drawAt_tellHost (e : HostEvent) (s : State) (n : Nat) : drawAt (tellHost e s) n = drawAt s n := rfl
@[simp] theorem drawAt_setOutBuf (b : List Byte) (s : State) (n : Nat) : drawAt (setOutBuf b s) n = drawAt s n := rfl
@[simp] theorem drawAt_hang (c : PendingCall) (s : State) (n : Nat) : drawAt (hang c s) n = drawAt s n := rfl
@[simp] theorem drawAt_setInputs (q : List HostItem) (s : State) (n : Nat) : drawAt (setInputs q s) n = drawAt s n := rfl

@[simp] theorem drawAt_passTime (s : State) (n : Nat) : drawAt (passTime s) n = drawAt s n := rfl

@[simp] theorem drawAt_consume (s : State) (n : Nat) : drawAt (consume s) n = drawAt s (n + 1) := by
  simp only [drawAt, consume, List.getElem?_tail]
  rw [Nat.add_right_comm, Nat.add_assoc]

/-- Two used-up draws are a drop by two; `List.tail_drop` goes on from there. -/
@[simp] theorem tail_tail_eq_drop {α : Type} (l : List α) : l.tail.tail = l.drop 2 := by
  rw [← List.drop_one, ← List.drop_one, List.drop_drop]

/-! ### Responses and errors -/

theorem emit_eq (r : List Byte) (s : State) : emit r s = { s with hostLog := s.hostLog ++ [.response r] } := rfl

theorem respond_eq (r : List Byte) (s : State) :
    respond r s = { s with lastErr := .ok, hostLog := s.hostLog ++ [.response (0x00#8 :: r)] } := rfl

theorem raise_eq (e : Status) (s : State) :
    raise e s = { s with phase := .idle, lastErr := e, hostLog := s.hostLog ++ [.response [statusCode e]] } :=
  rfl

/-! ### The transport calls -/

theorem signalCall_ok (l : Bool) {s : State} (h : (drawAt s 0).outcome = .ok) :
    signalCall l s = (.ok, setTe l l (record (.signal l .ok) (consume s))) := by
  simp [signalCall, signalAnswer, h]

theorem signalCall_fail (l : Bool) {s : State} (h : (drawAt s 0).outcome = .fail) :
    signalCall l s = (.fail, setTe (drawAt s 0).level (drawAt s 0).line
      (record (.signal l .fail) (consume s))) := by
  simp [signalCall, signalAnswer, h]

theorem signalCall_never (l : Bool) {s : State} (h : (drawAt s 0).outcome = .never) :
    signalCall l s = (.pending, hang (.signal l) (setLine (drawAt s 0).line
      (record (.signal l .pending) (consume s)))) := by
  simp [signalCall, signalAnswer, h]

theorem waitCall_done (ms : Nat) {s : State} (h : (drawAt s 0).outcome ≠ .never) :
    waitCall ms s = (true, setOutBuf (s.outBuf.drop (max (drawAt s 0).shifted (charactersIn ms s.baud)))
      (record (.wait ms) (consume s))) := by
  cases hd : (drawAt s 0).outcome <;> simp_all [waitCall]

theorem waitCall_never (ms : Nat) {s : State} (h : (drawAt s 0).outcome = .never) :
    waitCall ms s = (false, hang (.wait ms) (setOutBuf (s.outBuf.drop (drawAt s 0).shifted)
      (record (.wait ms) (consume s)))) := by
  simp [waitCall, h]

theorem closeCall_done (h : Handle) {s : State} (hd : (drawAt s 0).outcome ≠ .never) :
    closeCall h s = (true, setLine (drawAt s 0).line (setOutBuf (s.outBuf.drop (drawAt s 0).shifted)
      (record (.close h) (consume s)))) := by
  cases hc : (drawAt s 0).outcome <;> simp_all [closeCall]

theorem closeCall_never (h : Handle) {s : State} (hd : (drawAt s 0).outcome = .never) :
    closeCall h s = (false, hang (.close h) (setLine (drawAt s 0).line
      (setOutBuf (s.outBuf.drop (drawAt s 0).shifted) (record (.close h) (consume s))))) := by
  simp [closeCall, hd]

/-- The state after a `configure` that answered, whatever it answered. -/
def configured (baud : Word) (exclusive : Bool) (a : ConfigureAnswer) (s : State) : State :=
  setLine (drawAt s 0).line (setOutBuf (s.outBuf.drop (drawAt s 0).shifted)
    (record (.configure s.params.port baud .even 1 exclusive a) (consume s)))

theorem configureCall_ok (baud : Word) (x : Bool) {s : State} (h : (drawAt s 0).outcome = .ok)
    (hb : baud ∈ s.params.baudOk) :
    configureCall baud x s =
      (.ok (drawAt s 0).handle, configured baud x (.ok (drawAt s 0).handle) s) := by
  simp [configureCall, configureAnswer, configured, h, hb]

theorem configureCall_fail (baud : Word) (x : Bool) {s : State} (h : (drawAt s 0).outcome ≠ .never)
    (hb : (drawAt s 0).outcome = .fail ∨ baud ∉ s.params.baudOk) :
    configureCall baud x s = (.fail, configured baud x .fail s) := by
  cases hd : (drawAt s 0).outcome <;> simp_all [configureCall, configureAnswer, configured]

theorem configureCall_never (baud : Word) (x : Bool) {s : State} (h : (drawAt s 0).outcome = .never) :
    configureCall baud x s = (.pending, hang .configure (configured baud x .pending s)) := by
  simp [configureCall, configureAnswer, configured, h]

theorem writeCall_ok (f : List Byte) {s : State} (h : (drawAt s 0).outcome = .ok) :
    writeCall f s = (.ok, setOutBuf (bufferAfterWrite s.params.writeCompletion s.outBuf f
      (drawAt s 0).shifted) (record (.write f .ok) (consume s))) := by
  simp [writeCall, writeAnswer, h]

theorem writeCall_fail (f : List Byte) {s : State} (h : (drawAt s 0).outcome = .fail) :
    writeCall f s = (.fail (min (drawAt s 0).taken f.length),
      setOutBuf ((s.outBuf ++ f.take (min (drawAt s 0).taken f.length)).drop (drawAt s 0).shifted)
        (record (.write f (.fail (min (drawAt s 0).taken f.length))) (consume s))) := by
  simp [writeCall, writeAnswer, h]

theorem writeCall_never (f : List Byte) {s : State} (h : (drawAt s 0).outcome = .never) :
    writeCall f s = (.pending, hang (.write f)
      (setOutBuf ((s.outBuf ++ f.take (drawAt s 0).taken).drop (drawAt s 0).shifted)
        (record (.write f .pending) (consume s)))) := by
  simp [writeCall, writeAnswer, h]

/-! ### The frame of a link operation -/

/-- What no transport call and no part of the transmit-enable sequence changes, and what it may only add
to. -/
structure LinkFrame (s t : State) : Prop where
  params : t.params = s.params
  addr   : t.addr = s.addr
  baud   : t.baud = s.baud
  ctrl   : t.ctrl = s.ctrl
  settle : t.settle = s.settle
  inputs : t.inputs = s.inputs
  trace  : ∃ es, t.trace = s.trace ++ es

theorem LinkFrame.rfl' (s : State) : LinkFrame s s := ⟨rfl, rfl, rfl, rfl, rfl, rfl, [], by simp⟩

theorem LinkFrame.trans' {s t u : State} (h : LinkFrame s t) (k : LinkFrame t u) : LinkFrame s u := by
  obtain ⟨es, he⟩ := h.trace
  obtain ⟨fs, hf⟩ := k.trace
  exact ⟨k.params.trans h.params, k.addr.trans h.addr, k.baud.trans h.baud, k.ctrl.trans h.ctrl,
    k.settle.trans h.settle, k.inputs.trans h.inputs, es ++ fs, by rw [hf, he, List.append_assoc]⟩

theorem signalCall_frame (l : Bool) (s : State) :
    LinkFrame s (signalCall l s).2 ∧ (signalCall l s).2.handle = s.handle := by
  cases h : (drawAt s 0).outcome
  · rw [signalCall_ok l h]; refine ⟨?_, by simp⟩; constructor <;> simp
  · rw [signalCall_fail l h]; refine ⟨?_, by simp⟩; constructor <;> simp
  · rw [signalCall_never l h]; refine ⟨?_, by simp⟩; constructor <;> simp

theorem waitCall_frame (ms : Nat) (s : State) :
    LinkFrame s (waitCall ms s).2 ∧ (waitCall ms s).2.handle = s.handle := by
  by_cases h : (drawAt s 0).outcome = .never
  · rw [waitCall_never ms h]; refine ⟨?_, by simp⟩; constructor <;> simp
  · rw [waitCall_done ms h]; refine ⟨?_, by simp⟩; constructor <;> simp

theorem writeCall_frame (f : List Byte) (s : State) :
    LinkFrame s (writeCall f s).2 ∧ (writeCall f s).2.handle = s.handle := by
  cases h : (drawAt s 0).outcome
  · rw [writeCall_ok f h]; refine ⟨?_, by simp⟩; constructor <;> simp
  · rw [writeCall_fail f h]; refine ⟨?_, by simp⟩; constructor <;> simp
  · rw [writeCall_never f h]; refine ⟨?_, by simp⟩; constructor <;> simp

theorem closeCall_frame (h : Handle) (s : State) : LinkFrame s (closeCall h s).2 := by
  by_cases hd : (drawAt s 0).outcome = .never
  · rw [closeCall_never h hd]; constructor <;> simp
  · rw [closeCall_done h hd]; constructor <;> simp

theorem raise_frame (e : Status) (s : State) :
    LinkFrame s (raise e s) ∧ (raise e s).handle = s.handle := by
  refine ⟨?_, by simp [raise_eq]⟩
  constructor <;> simp [raise_eq]

theorem respond_frame (r : List Byte) (s : State) :
    LinkFrame s (respond r s) ∧ (respond r s).handle = s.handle := by
  refine ⟨?_, by simp [respond_eq]⟩
  constructor <;> simp [respond_eq]

/-! ### The parts of `transmit`, by what the environment chooses -/

theorem failPath_released (s : State) :
    failPath true s = raise .transportError (setOpState .failed s) := rfl

theorem failPath_answered {s : State} (h : (drawAt s 0).outcome ≠ .never) :
    failPath false s = raise .transportError (setOpState .failed (signalCall false s).2) := by
  cases hd : (drawAt s 0).outcome
  · simp [failPath, signalCall_ok false hd]
  · simp [failPath, signalCall_fail false hd]
  · exact absurd hd h

theorem failPath_never {s : State} (h : (drawAt s 0).outcome = .never) :
    failPath false s = (signalCall false s).2 := by
  simp [failPath, signalCall_never false h]

theorem failPath_frame (b : Bool) (s : State) :
    LinkFrame s (failPath b s) ∧ (failPath b s).handle = s.handle := by
  cases b
  · have h := signalCall_frame false s
    by_cases hd : (drawAt s 0).outcome = .never
    · rw [failPath_never hd]; exact h
    · rw [failPath_answered hd]
      refine ⟨h.1.trans' ?_, by simp [raise_eq, h.2]⟩
      constructor <;> simp [raise_eq]
  · refine ⟨?_, by simp [failPath_released, raise_eq]⟩
    constructor <;> simp [failPath_released, raise_eq]

theorem releaseTe_ok {s : State} (h : (drawAt s 0).outcome = .ok) :
    releaseTe s = respond [] (setPhase .idle (signalCall false (setPhase .release s)).2) := by
  simp [releaseTe, signalCall_ok false (s := setPhase .release s) h]

theorem releaseTe_fail {s : State} (h : (drawAt s 0).outcome = .fail) :
    releaseTe s = failPath true (signalCall false (setPhase .release s)).2 := by
  simp [releaseTe, signalCall_fail false (s := setPhase .release s) h]

theorem releaseTe_never {s : State} (h : (drawAt s 0).outcome = .never) :
    releaseTe s = (signalCall false (setPhase .release s)).2 := by
  simp [releaseTe, signalCall_never false (s := setPhase .release s) h]

theorem holdTe_done {s : State} (h : (drawAt s 0).outcome ≠ .never) :
    holdTe s = releaseTe (waitCall s.settle.toNat (setPhase .hold s)).2 := by
  simp [holdTe, waitCall_done s.settle.toNat (s := setPhase .hold s) h]

theorem holdTe_never {s : State} (h : (drawAt s 0).outcome = .never) :
    holdTe s = (waitCall s.settle.toNat (setPhase .hold s)).2 := by
  simp [holdTe, waitCall_never s.settle.toNat (s := setPhase .hold s) h]

theorem writeFrame_ok (f : List Byte) {s : State} (h : (drawAt s 0).outcome = .ok) :
    writeFrame f s = holdTe (writeCall f (setPhase .write s)).2 := by
  simp [writeFrame, writeCall_ok f (s := setPhase .write s) h]

theorem writeFrame_fail (f : List Byte) {s : State} (h : (drawAt s 0).outcome = .fail) :
    writeFrame f s = failPath false (writeCall f (setPhase .write s)).2 := by
  simp [writeFrame, writeCall_fail f (s := setPhase .write s) h]

theorem writeFrame_never (f : List Byte) {s : State} (h : (drawAt s 0).outcome = .never) :
    writeFrame f s = (writeCall f (setPhase .write s)).2 := by
  simp [writeFrame, writeCall_never f (s := setPhase .write s) h]

theorem leadWait_none {s : State} (h : s.params.teLeadMs = 0) : leadWait s = (true, s) := by
  simp [leadWait, h]

theorem leadWait_some {s : State} (h : s.params.teLeadMs ≠ 0) :
    leadWait s = waitCall s.params.teLeadMs (setPhase .lead s) := by
  simp [leadWait, h]

theorem transmit_raised (f : List Byte) {s : State} (h : (drawAt s 0).outcome = .ok) :
    transmit f s = (if (leadWait (signalCall true (setPhase .assert s)).2).1
      then writeFrame f (leadWait (signalCall true (setPhase .assert s)).2).2
      else (leadWait (signalCall true (setPhase .assert s)).2).2) := by
  unfold transmit
  rw [signalCall_ok true (s := setPhase .assert s) h]
  dsimp only
  cases leadWait (setTe true true (record (Event.signal true SignalAnswer.ok)
    (consume (setPhase Phase.assert s)))) with
  | mk b u => cases b <;> rfl

theorem transmit_raise_fail (f : List Byte) {s : State} (h : (drawAt s 0).outcome = .fail) :
    transmit f s = failPath false (signalCall true (setPhase .assert s)).2 := by
  simp [transmit, signalCall_fail true (s := setPhase .assert s) h]

theorem transmit_raise_never (f : List Byte) {s : State} (h : (drawAt s 0).outcome = .never) :
    transmit f s = (signalCall true (setPhase .assert s)).2 := by
  simp [transmit, signalCall_never true (s := setPhase .assert s) h]

/-! ### The frame of the whole sequence -/

theorem setPhase_frame (p : Phase) (s : State) :
    LinkFrame s (setPhase p s) ∧ (setPhase p s).handle = s.handle := by
  refine ⟨?_, by simp⟩
  constructor <;> simp

theorem releaseTe_frame (s : State) : LinkFrame s (releaseTe s) ∧ (releaseTe s).handle = s.handle := by
  have h := signalCall_frame false (setPhase .release s)
  have h1 := (setPhase_frame .release s).1.trans' h.1
  have h2 := h.2.trans (setPhase_handle .release s)
  cases hd : (drawAt s 0).outcome
  · rw [releaseTe_ok hd]
    refine ⟨(h1.trans' (setPhase_frame .idle _).1).trans' (respond_frame [] _).1, ?_⟩
    simp [respond_eq, h2]
  · rw [releaseTe_fail hd]
    have k := failPath_frame true (signalCall false (setPhase .release s)).2
    exact ⟨h1.trans' k.1, k.2.trans h2⟩
  · rw [releaseTe_never hd]; exact ⟨h1, h2⟩

theorem holdTe_frame (s : State) : LinkFrame s (holdTe s) ∧ (holdTe s).handle = s.handle := by
  have h := waitCall_frame s.settle.toNat (setPhase .hold s)
  have h1 := (setPhase_frame .hold s).1.trans' h.1
  by_cases hd : (drawAt s 0).outcome = .never
  · rw [holdTe_never hd]; exact ⟨h1, h.2⟩
  · rw [holdTe_done hd]
    have k := releaseTe_frame (waitCall s.settle.toNat (setPhase .hold s)).2
    exact ⟨h1.trans' k.1, k.2.trans h.2⟩

theorem writeFrame_frame (f : List Byte) (s : State) :
    LinkFrame s (writeFrame f s) ∧ (writeFrame f s).handle = s.handle := by
  have h := writeCall_frame f (setPhase .write s)
  have h1 := (setPhase_frame .write s).1.trans' h.1
  cases hd : (drawAt s 0).outcome
  · rw [writeFrame_ok f hd]
    have k := holdTe_frame (writeCall f (setPhase .write s)).2
    exact ⟨h1.trans' k.1, k.2.trans h.2⟩
  · rw [writeFrame_fail f hd]
    have k := failPath_frame false (writeCall f (setPhase .write s)).2
    exact ⟨h1.trans' k.1, k.2.trans h.2⟩
  · rw [writeFrame_never f hd]; exact ⟨h1, h.2⟩

theorem leadWait_frame (s : State) : LinkFrame s (leadWait s).2 ∧ (leadWait s).2.handle = s.handle := by
  by_cases h : s.params.teLeadMs = 0
  · rw [leadWait_none h]; exact ⟨LinkFrame.rfl' s, rfl⟩
  · rw [leadWait_some h]
    have k := waitCall_frame s.params.teLeadMs (setPhase .lead s)
    exact ⟨(setPhase_frame .lead s).1.trans' k.1, k.2⟩

/-- What `transmit` leaves alone, on every path: the configuration, the inputs, HANDLE, and every event
already in TRACE. -/
theorem transmit_frame (f : List Byte) (s : State) :
    LinkFrame s (transmit f s) ∧ (transmit f s).handle = s.handle := by
  have h := signalCall_frame true (setPhase .assert s)
  have h1 := (setPhase_frame .assert s).1.trans' h.1
  cases hd : (drawAt s 0).outcome
  · rw [transmit_raised f hd]
    have k := leadWait_frame (signalCall true (setPhase .assert s)).2
    split
    · have w := writeFrame_frame f (leadWait (signalCall true (setPhase .assert s)).2).2
      exact ⟨(h1.trans' k.1).trans' w.1, w.2.trans (k.2.trans h.2)⟩
    · exact ⟨h1.trans' k.1, k.2.trans h.2⟩
  · rw [transmit_raise_fail f hd]
    have k := failPath_frame false (signalCall true (setPhase .assert s)).2
    exact ⟨h1.trans' k.1, k.2.trans h.2⟩
  · rw [transmit_raise_never f hd]; exact ⟨h1, h.2⟩

end Sys2Proof.Machine
end

