-- ==== Sys2Proof/Laws/Link.lean ====
section
/-! SUPPORT. The transmit-enable sequence and INIT said once: the state after a sequence whose calls all answer
ok, and everything either can end in. -/

namespace Sys2Proof.Machine

open Sys2Proof.Safety

theorem suffix_append_append {α} {a c : List α} (b : List α) (h : a <:+ c) : a ++ b <:+ c ++ b := by
  obtain ⟨t, rfl⟩ := h
  exact ⟨t, by simp⟩

theorem raise_idle (e : Status) (s : State) (h : s.phase = .idle) :
    raise e s = answered s e [statusCode e] := by
  apply State.ext <;> simp [raise, emit, answered, h]

/-- The output buffer after the lead wait of a sequence whose calls all answer ok. -/
def leadBuffer (s : State) : List Byte :=
  if s.params.teLeadMs = 0 then s.outBuf
  else s.outBuf.drop (max (drawAt s 1).shifted (charactersIn s.params.teLeadMs s.baud))

/-- The output buffer after its write. -/
def writtenBuffer (s : State) (f : List Byte) : List Byte :=
  bufferAfterWrite s.params.writeCompletion (leadBuffer s) f (drawAt s (leadCalls s + 1)).shifted

/-- The output buffer after its settle wait, which is what TE drops on. -/
def heldBuffer (s : State) (f : List Byte) : List Byte :=
  (writtenBuffer s f).drop (max (drawAt s (leadCalls s + 2)).shifted (charactersIn s.settle.toNat s.baud))

/-- The state in which the write starts: TE raised and the lead wait over, both answered ok. -/
def atWrite (s : State) : State :=
  { s with
    te := true
    teLine := true
    phase := if s.params.teLeadMs = 0 then .assert else .lead
    trace := s.trace ++ ([.signal true .ok] ++ leadEvents s)
    outBuf := leadBuffer s
    draws := s.draws.drop (leadCalls s + 1)
    drawn := s.drawn + (leadCalls s + 1) }

@[simp] theorem atWrite_params (s : State) : (atWrite s).params = s.params := rfl
@[simp] theorem atWrite_opState (s : State) : (atWrite s).opState = s.opState := rfl
@[simp] theorem atWrite_te (s : State) : (atWrite s).te = true := rfl
@[simp] theorem atWrite_addr (s : State) : (atWrite s).addr = s.addr := rfl
@[simp] theorem atWrite_baud (s : State) : (atWrite s).baud = s.baud := rfl
@[simp] theorem atWrite_ctrl (s : State) : (atWrite s).ctrl = s.ctrl := rfl
@[simp] theorem atWrite_settle (s : State) : (atWrite s).settle = s.settle := rfl
@[simp] theorem atWrite_lastErr (s : State) : (atWrite s).lastErr = s.lastErr := rfl
@[simp] theorem atWrite_phase (s : State) : (atWrite s).phase = if s.params.teLeadMs = 0 then .assert else .lead :=
  rfl
@[simp] theorem atWrite_handle (s : State) : (atWrite s).handle = s.handle := rfl
@[simp] theorem atWrite_trace (s : State) : (atWrite s).trace = s.trace ++ ([.signal true .ok] ++ leadEvents s) :=
  rfl
@[simp] theorem atWrite_outBuf (s : State) : (atWrite s).outBuf = leadBuffer s := rfl
@[simp] theorem atWrite_teLine (s : State) : (atWrite s).teLine = true := rfl
@[simp] theorem atWrite_waitingOn (s : State) : (atWrite s).waitingOn = s.waitingOn := rfl
@[simp] theorem atWrite_inputs (s : State) : (atWrite s).inputs = s.inputs := rfl
@[simp] theorem atWrite_hostLog (s : State) : (atWrite s).hostLog = s.hostLog := rfl
@[simp] theorem atWrite_draws (s : State) : (atWrite s).draws = s.draws.drop (leadCalls s + 1) := rfl
@[simp] theorem atWrite_drawn (s : State) : (atWrite s).drawn = s.drawn + (leadCalls s + 1) := rfl
@[simp] theorem atWrite_gaps (s : State) : (atWrite s).gaps = s.gaps := rfl
@[simp] theorem atWrite_gapsTaken (s : State) : (atWrite s).gapsTaken = s.gapsTaken := rfl

@[simp] theorem drawAt_atWrite (s : State) (n : Nat) :
    drawAt (atWrite s) n = drawAt s (leadCalls s + 1 + n) := by
  simp [drawAt, List.getElem?_drop, Nat.add_assoc]

/-- `transmit` whose raise and lead wait answer ok goes on with its write. -/
theorem transmit_atWrite (s : State) (f : List Byte) (hok : answersOk s (leadCalls s + 1)) :
    transmit f s = writeFrame f (atWrite s) := by
  have h0 := hok 0 (by omega)
  rw [transmit_raised f h0, signalCall_ok true (s := setPhase .assert s) (by simpa using h0)]
  by_cases hl : s.params.teLeadMs = 0
  · rw [leadWait_none (by simpa using hl), if_pos rfl]
    congr 1
    apply State.ext <;> simp [hl, leadCalls, leadEvents, leadBuffer]
  · have h1 := hok 1 (by simp [leadCalls, hl])
    rw [leadWait_some (by simpa using hl), waitCall_done _ (by simp [h1]), if_pos rfl]
    congr 1
    apply State.ext <;> simp [hl, leadCalls, leadEvents, leadBuffer]

/-- `transmit` when every call answers ok: one pulse, with the output buffer computed. -/
theorem transmit_all_ok (s : State) (f : List Byte)
    (hok : answersOk s (leadCalls s + 4)) :
    transmit f s = pulseDone s f (heldBuffer s f) := by
  have h1 := hok (leadCalls s + 1) (by omega)
  have h2 := hok (leadCalls s + 2) (by omega)
  have h3 := hok (leadCalls s + 3) (by omega)
  rw [transmit_atWrite s f fun n h => hok n (by omega), writeFrame_ok f (by simpa using h1),
    writeCall_ok f (by simpa using h1), holdTe_done (by simp [h2]), waitCall_done _ (by simp [h2]),
    releaseTe_ok (by simpa using h3), signalCall_ok false (by simpa using h3)]
  apply State.ext <;>
    simp [pulseDone, served, respond, emit, heldBuffer, writtenBuffer, statusCode, Nat.add_assoc]

theorem leadBuffer_suffix (s : State) : leadBuffer s <:+ s.outBuf := by
  unfold leadBuffer
  split
  · exact List.suffix_refl _
  · exact List.drop_suffix _ _

theorem heldBuffer_suffix (s : State) (f : List Byte) : heldBuffer s f <:+ s.outBuf ++ f := by
  refine (List.drop_suffix _ _).trans ?_
  unfold writtenBuffer bufferAfterWrite
  split
  · exact List.nil_suffix
  · exact (List.drop_suffix _ _).trans (suffix_append_append f (leadBuffer_suffix s))

theorem sendRequest_ready (s : State) (c u : Byte) (d : List Byte) (hr : s.opState = .ready)
    (hl : d.length + 2 ≤ s.params.maxPayload) :
    sendRequest c u d s = transmit (telegramOf s.addr ([c,u] ++ d)) s := by
  simp [sendRequest, sendPayload, exceedsPayload_of_le hl, hr, telegram_eq_telegramOf]

theorem runCommand_all_ok (s : State) (c : Byte) (d : List Byte) (hr : s.opState = .ready)
    (hl : d.length + 2 ≤ s.params.maxPayload) (hok : answersOk s (leadCalls s + 4)) :
    runCommand c (some d) s = pulseDone s (telegramOf s.addr ([c, 0x00#8] ++ d))
      (heldBuffer s (telegramOf s.addr ([c, 0x00#8] ++ d))) := by
  rw [runCommand, sendRequest_ready s c _ d hr hl, transmit_all_ok s _ hok]

theorem runCommand_refused (s : State) (c : Byte) :
    runCommand c none s = { s with hostLog := s.hostLog ++ [.encodingError] } := rfl

theorem exclusiveFlag_of_reserved {f : Byte} (h : f &&& 0xFE#8 = 0x00#8) :
    exclusiveFlag f = decide (f = 0x01#8) := by
  have key : ∀ n : Fin 256, (BitVec.ofNat 8 n.val) &&& 0xFE#8 = 0x00#8 →
      exclusiveFlag (BitVec.ofNat 8 n.val) = decide ((BitVec.ofNat 8 n.val) = 0x01#8) := by
    set_option maxRecDepth 4000 in decide
  have := key ⟨f.toNat, f.isLt⟩
  simp at this
  exact this h

theorem execInit_legal {s : State} {a : Byte} {b : Word} {f : Byte} {m : Half}
    (h1 : 1 ≤ a.toNat) (h2 : a.toNat ≤ 127) (h3 : b ≠ 0#32) (h4 : f &&& 0xFE#8 = 0x00#8) (h5 : 100 ≤ m.toNat) :
    exec (.init a b f m) s = .next (openTransport a b f m s) := by
  simp [exec, execInit, legalAddress_of_range h1 h2, h3, reservedFlags, h4]
  omega

theorem closeOpenHandle_none {s : State} (h : s.handle = none) : closeOpenHandle s = (true, s) := by
  simp [closeOpenHandle, h]

theorem closeOpenHandle_some {s : State} {x : Handle} (h : s.handle = some x)
    (hd : (drawAt s 0).outcome ≠ .never) :
    closeOpenHandle s = (true, setOpState .uninit (setHandle none (closeCall x s).2)) := by
  simp [closeOpenHandle, h, closeCall_done x hd]

/-- From `s` to `t` the trace grew by events that keep the pulse discipline from `p0`, and the pulse is over
unless a call has not returned. -/
def Traced (p0 : Pulse) (s t : State) : Prop :=
  100 ≤ s.settle.toNat →
    ∃ es p, t.trace = s.trace ++ es ∧ pulseFrom p0 es = some p ∧ (t.waitingOn = none → p = .outside)

/-- The three ends of a transmit: hung, answered OK, answered TRANSPORT_ERROR. -/
def Finished (s t : State) : Prop :=
  (t.waitingOn ≠ none ∧ t.hostLog = s.hostLog ∧ t.lastErr = s.lastErr ∧ t.opState = s.opState) ∨
  (t.waitingOn = none ∧ t.phase = .idle ∧ t.hostLog = s.hostLog ++ [.response [0x00#8]] ∧
    t.lastErr = .ok ∧ t.opState = s.opState ∧ t.te = false ∧ t.teLine = false) ∨
  (t.waitingOn = none ∧ t.phase = .idle ∧ t.hostLog = s.hostLog ++ [.response [0x02#8]] ∧
    t.lastErr = .transportError ∧ t.opState = .failed)

/-- Everything a part of the transmit-enable sequence can end in. -/
def Ends (p0 : Pulse) (s t : State) : Prop := Traced p0 s t ∧ Finished s t

/-- One event before the rest, where the discipline may need a legal SETTLE. -/
theorem Ends.consW {p0 p1 : Pulse} {e : Event} {s s' t : State} (h : Ends p1 s' t)
    (ht : s'.trace = s.trace ++ [e]) (hp : 100 ≤ s.settle.toNat → pulseStep p0 e = some p1)
    (h1 : s'.hostLog = s.hostLog) (h2 : s'.lastErr = s.lastErr) (h3 : s'.opState = s.opState)
    (h4 : s'.settle = s.settle) : Ends p0 s t := by
  refine ⟨?_, ?_⟩
  · intro hs
    obtain ⟨es, p, a, b, c⟩ := h.1 (by rw [h4]; exact hs)
    exact ⟨e :: es, p, by rw [a, ht]; simp, by simp [pulseFrom, hp hs, b], c⟩
  · have := h.2
    unfold Finished at *
    rw [h1, h2, h3] at this
    exact this

/-- One event before the rest. -/
theorem Ends.cons {p0 p1 : Pulse} {e : Event} {s s' t : State} (h : Ends p1 s' t)
    (ht : s'.trace = s.trace ++ [e]) (hp : pulseStep p0 e = some p1)
    (h1 : s'.hostLog = s.hostLog) (h2 : s'.lastErr = s.lastErr) (h3 : s'.opState = s.opState)
    (h4 : s'.settle = s.settle) : Ends p0 s t :=
  h.consW ht (fun _ => hp) h1 h2 h3 h4

/-- A call that never returned. -/
theorem Ends.hung {p0 p : Pulse} {e : Event} {s t : State} (ht : t.trace = s.trace ++ [e])
    (hp : 100 ≤ s.settle.toNat → pulseStep p0 e = some p) (hw : t.waitingOn ≠ none)
    (h1 : t.hostLog = s.hostLog) (h2 : t.lastErr = s.lastErr) (h3 : t.opState = s.opState) : Ends p0 s t := by
  refine ⟨?_, Or.inl ⟨hw, h1, h2, h3⟩⟩
  intro hs
  exact ⟨[e], p, ht, by simp [pulseFrom, hp hs], fun h => absurd h hw⟩

theorem Ends.failed {s : State} (hw : s.waitingOn = none) :
    Ends .outside s (raise .transportError (setOpState .failed s)) := by
  refine ⟨fun _ => ⟨[], .outside, by simp [raise, emit], rfl, fun _ => rfl⟩, Or.inr (Or.inr ?_)⟩
  simp [raise, emit, hw, statusCode]

theorem failPath_ends {p0 : Pulse} {s : State} (hw : s.waitingOn = none)
    (hp : p0 = .recovering ∨ p0 = .settled) :
    Ends p0 s (failPath false s) := by
  have pok : pulseStep p0 (.signal false .ok) = some .outside := by rcases hp with rfl | rfl <;> rfl
  have pfl : pulseStep p0 (.signal false .fail) = some .outside := by rcases hp with rfl | rfl <;> rfl
  have ppd : pulseStep p0 (.signal false .pending) = some .stuck := by rcases hp with rfl | rfl <;> rfl
  cases h : (drawAt s 0).outcome
  · rw [failPath_answered (by simp [h]), signalCall_ok false h]
    exact Ends.cons (Ends.failed (by simpa using hw)) (by simp) pok (by simp) (by simp) (by simp) (by simp)
  · rw [failPath_answered (by simp [h]), signalCall_fail false h]
    exact Ends.cons (Ends.failed (by simpa using hw)) (by simp) pfl (by simp) (by simp) (by simp) (by simp)
  · rw [failPath_never h, signalCall_never false h]
    exact Ends.hung (e := .signal false .pending) (by simp) (fun _ => ppd) (by simp) (by simp)
      (by simp) (by simp)

theorem releaseTe_ends {s : State} (hw : s.waitingOn = none) : Ends .settled s (releaseTe s) := by
  cases h : (drawAt s 0).outcome
  · rw [releaseTe_ok h, signalCall_ok false (by simpa using h)]
    refine ⟨fun _ => ⟨[.signal false .ok], .outside, by simp [respond, emit], rfl, fun _ => rfl⟩,
      Or.inr (Or.inl ?_)⟩
    simp [respond, emit, hw, statusCode]
  · rw [releaseTe_fail h, signalCall_fail false (by simpa using h), failPath_released]
    exact Ends.cons (e := .signal false .fail) (Ends.failed (by simpa using hw)) (by simp) rfl
      (by simp) (by simp) (by simp) (by simp)
  · rw [releaseTe_never h, signalCall_never false (by simpa using h)]
    exact Ends.hung (e := .signal false .pending) (by simp) (fun _ => rfl) (by simp) (by simp)
      (by simp) (by simp)

theorem holdTe_ends {s : State} (hw : s.waitingOn = none) : Ends .written s (holdTe s) := by
  have hp : 100 ≤ s.settle.toNat → pulseStep .written (.wait s.settle.toNat) = some .settled := by
    intro h; simp [pulseStep, h]
  by_cases h : (drawAt s 0).outcome = .never
  · rw [holdTe_never h, waitCall_never _ (by simpa using h)]
    exact Ends.hung (e := .wait s.settle.toNat) (by simp) hp (by simp) (by simp) (by simp) (by simp)
  · rw [holdTe_done h, waitCall_done _ (by simpa using h)]
    exact Ends.consW (e := .wait s.settle.toNat) (releaseTe_ends (by simpa using hw))
      (by simp) hp (by simp) (by simp) (by simp) (by simp)

theorem writeFrame_ends (f : List Byte) {s : State} (hw : s.waitingOn = none) :
    Ends .raised s (writeFrame f s) := by
  cases h : (drawAt s 0).outcome
  · rw [writeFrame_ok f h, writeCall_ok f (by simpa using h)]
    exact Ends.cons (e := .write f .ok) (holdTe_ends (by simpa using hw)) (by simp) rfl (by simp)
      (by simp) (by simp) (by simp)
  · rw [writeFrame_fail f h, writeCall_fail f (by simpa using h)]
    exact Ends.cons (failPath_ends (by simpa using hw) (.inl rfl)) (by simp; rfl) rfl (by simp)
      (by simp) (by simp) (by simp)
  · rw [writeFrame_never f h, writeCall_never f (by simpa using h)]
    exact Ends.hung (e := .write f .pending) (by simp) (fun _ => rfl) (by simp) (by simp) (by simp) (by simp)

/-- Everything `transmit` can end in. -/
theorem transmit_ends (f : List Byte) {s : State} (hw : s.waitingOn = none) :
    Ends .outside s (transmit f s) := by
  cases h : (drawAt s 0).outcome
  · rw [transmit_raised f h, signalCall_ok true (s := setPhase .assert s) (by simpa using h)]
    by_cases hl : s.params.teLeadMs = 0
    · rw [leadWait_none (by simpa using hl), if_pos rfl]
      exact Ends.cons (e := .signal true .ok) (writeFrame_ends f (by simpa using hw)) (by simp)
        rfl (by simp) (by simp) (by simp) (by simp)
    · rw [leadWait_some (by simpa using hl)]
      by_cases hd : (drawAt s 1).outcome = .never
      · rw [waitCall_never _ (by simpa using hd), if_neg (by simp)]
        refine Ends.cons (e := .signal true .ok)
          (s' := setTe true true (record (.signal true .ok) (consume (setPhase .assert s)))) ?_
            (by simp) rfl (by simp) (by simp) (by simp) (by simp)
        exact Ends.hung (e := .wait s.params.teLeadMs) (by simp) (fun _ => rfl) (by simp)
          (by simp) (by simp) (by simp)
      · rw [waitCall_done _ (by simpa using hd), if_pos rfl]
        refine Ends.cons (e := .signal true .ok)
          (s' := setTe true true (record (.signal true .ok) (consume (setPhase .assert s)))) ?_
            (by simp) rfl (by simp) (by simp) (by simp) (by simp)
        exact Ends.cons (e := .wait s.params.teLeadMs) (writeFrame_ends f (by simpa using hw))
          (by simp) rfl (by simp) (by simp) (by simp) (by simp)
  · rw [transmit_raise_fail f h, signalCall_fail true (s := setPhase .assert s) (by simpa using h)]
    exact Ends.cons (failPath_ends (by simpa using hw) (.inl rfl)) (by simp; rfl) rfl (by simp)
      (by simp) (by simp) (by simp)
  · rw [transmit_raise_never f h, signalCall_never true (s := setPhase .assert s) (by simpa using h)]
    exact Ends.hung (e := .signal true .pending) (by simp) (fun _ => rfl) (by simp) (by simp)
      (by simp) (by simp)

/-- The three ends of INIT after its operand checks: hung, answered OK, answered TRANSPORT_ERROR. -/
structure InitEnds (a : Byte) (b : Word) (f : Byte) (m : Half) (s t : State) : Prop where
  params : t.params = s.params
  inputs : t.inputs = s.inputs
  trace : ∃ es p, t.trace = s.trace ++ es ∧ pulseFrom .outside es = some p ∧
    (t.waitingOn = none → p = .outside)
  phase : t.phase = s.phase ∨ t.phase = .idle
  fin : (t.waitingOn ≠ none ∧ t.hostLog = s.hostLog ∧ t.lastErr = s.lastErr ∧ t.addr = s.addr ∧
      t.baud = s.baud ∧ t.ctrl = s.ctrl ∧ t.settle = s.settle ∧
      ((t.opState = s.opState ∧ t.handle = s.handle) ∨ (t.opState = .uninit ∧ t.handle = none))) ∨
    (t.waitingOn = none ∧ t.hostLog = s.hostLog ++ [.response [0x00#8]] ∧ t.lastErr = .ok ∧
      t.opState = .ready ∧ t.handle ≠ none ∧ t.te = false ∧ t.teLine = false ∧
      t.addr = a ∧ t.baud = b ∧ t.ctrl = f ∧ t.settle = m) ∨
    (t.waitingOn = none ∧ t.phase = .idle ∧ t.hostLog = s.hostLog ++ [.response [0x02#8]] ∧
      t.lastErr = .transportError ∧ t.addr = s.addr ∧ t.baud = s.baud ∧ t.ctrl = s.ctrl ∧
      t.settle = s.settle ∧
      ((t.opState = s.opState ∧ t.handle = none ∧ s.handle = none) ∨
        (t.opState = .uninit ∧ t.handle = none)))

/-- INIT's next part started from `s'`, one event after `s` and with no handle. -/
theorem InitEnds.after {a : Byte} {b : Word} {f : Byte} {m : Half} {s s' t : State} {e : Event}
    (k : InitEnds a b f m s' t) (he : pulseStep .outside e = some .outside)
    (ht : s'.trace = s.trace ++ [e])
    (same : s'.params = s.params ∧ s'.inputs = s.inputs ∧ s'.phase = s.phase ∧ s'.hostLog = s.hostLog ∧
      s'.lastErr = s.lastErr ∧ s'.addr = s.addr ∧ s'.baud = s.baud ∧ s'.ctrl = s.ctrl ∧
      s'.settle = s.settle)
    (hn : s'.handle = none) (ho : (s'.opState = s.opState ∧ s.handle = none) ∨ s'.opState = .uninit) :
    InitEnds a b f m s t := by
  obtain ⟨e1, e2, e3, e4, e5, e6, e7, e8, e9⟩ := same
  obtain ⟨hp, hi, ⟨es, p, h1, h2, h3⟩, hph, hfin⟩ := k
  rw [e3] at hph
  rw [e4, e5, e6, e7, e8, e9, hn] at hfin
  refine ⟨hp.trans e1, hi.trans e2, ⟨e :: es, p, by rw [h1, ht]; simp, by simp [pulseFrom, he, h2], h3⟩,
    hph, ?_⟩
  rcases hfin with ⟨a1, a2, a3, a4, a5, a6, a7, a8⟩ | h | ⟨a0, a1, a2, a3, a4, a5, a6, a7, a8⟩
  · refine .inl ⟨a1, a2, a3, a4, a5, a6, a7, ?_⟩
    rcases a8 with ⟨o, h⟩ | h
    · rcases ho with ⟨ho, hs⟩ | ho
      · exact .inl ⟨o.trans ho, h.trans hs.symm⟩
      · exact .inr ⟨o.trans ho, h⟩
    · exact .inr h
  · exact .inr (.inl h)
  · refine .inr (.inr ⟨a0, a1, a2, a3, a4, a5, a6, a7, ?_⟩)
    rcases a8 with ⟨o, h, -⟩ | h
    · rcases ho with ⟨ho, hs⟩ | ho
      · exact .inl ⟨o.trans ho, h, hs⟩
      · exact .inr ⟨o.trans ho, h⟩
    · exact .inr h

theorem adoptHandle_ends (h : Handle) (a : Byte) (b : Word) (f : Byte) (m : Half) {s : State}
    (hw : s.waitingOn = none) (hh : s.handle = none) :
    InitEnds a b f m s (adoptHandle h a b f m s) := by
  unfold adoptHandle
  cases hd : (drawAt s 0).outcome
  · rw [signalCall_ok false hd]
    constructor
    · simp [respond, emit]
    · simp [respond, emit]
    · exact ⟨[.signal false .ok], .outside, by simp [respond, emit], rfl, fun _ => rfl⟩
    · simp [respond, emit]
    · right; left; simp [respond, emit, hw, statusCode]
  · rw [signalCall_fail false hd]
    dsimp only
    by_cases hc : (drawAt s 1).outcome = .never
    · rw [closeCall_never _ (by simpa using hc)]
      constructor
      · simp
      · simp
      · exact ⟨[.signal false .fail, .close h], .outside, by simp, rfl, fun _ => rfl⟩
      · simp
      · left; simp
    · rw [closeCall_done _ (by simpa using hc)]
      constructor
      · simp [raise, emit]
      · simp [raise, emit]
      · exact ⟨[.signal false .fail, .close h], .outside, by simp [raise, emit], rfl, fun _ => rfl⟩
      · simp [raise, emit]
      · right; right; simp [raise, emit, hw, statusCode, hh]
  · rw [signalCall_never false hd]
    constructor
    · simp
    · simp
    · exact ⟨[.signal false .pending], .stuck, by simp, rfl, by simp⟩
    · simp
    · left; simp

theorem configureLink_ends (a : Byte) (b : Word) (f : Byte) (m : Half) {s : State}
    (hw : s.waitingOn = none) (hh : s.handle = none) :
    InitEnds a b f m s (configureLink a b f m s) := by
  unfold configureLink
  by_cases hn : (drawAt s 0).outcome = .never
  · rw [configureCall_never _ _ hn]
    constructor
    · simp [configured]
    · simp [configured]
    · exact ⟨_, .stuck, by simp [configured]; rfl, rfl, by simp⟩
    · simp [configured]
    · left; simp [configured]
  · by_cases hf : (drawAt s 0).outcome = .fail ∨ b ∉ s.params.baudOk
    · rw [configureCall_fail _ _ hn hf]
      constructor
      · simp [raise, emit, configured]
      · simp [raise, emit, configured]
      · exact ⟨_, .outside, by simp [raise, emit, configured]; rfl, rfl, fun _ => rfl⟩
      · simp [raise, emit, configured]
      · right; right; simp [raise, emit, hw, statusCode, hh, configured]
    · push Not at hf
      have ho : (drawAt s 0).outcome = .ok := by
        cases h : (drawAt s 0).outcome
        · rfl
        · exact absurd h hf.1
        · exact absurd h hn
      rw [configureCall_ok _ _ ho hf.2]
      dsimp only
      refine (adoptHandle_ends (drawAt s 0).handle a b f m
        (s := configured b (exclusiveFlag f) (.ok (drawAt s 0).handle) s) ?_ ?_).after (s := s)
        rfl rfl (by simp [configured]) (by simp [configured, hh]) (by simp [configured, hh])
      · simpa [configured] using hw
      · simpa [configured] using hh

/-- Everything INIT can end in once its operands are legal. -/
theorem openTransport_ends (a : Byte) (b : Word) (f : Byte) (m : Half) {s : State}
    (hw : s.waitingOn = none) :
    InitEnds a b f m s (openTransport a b f m s) := by
  unfold openTransport
  cases hh : s.handle with
  | none => rw [closeOpenHandle_none hh]; exact configureLink_ends a b f m hw hh
  | some x =>
    by_cases hn : (drawAt s 0).outcome = .never
    · have : closeOpenHandle s = (false, (closeCall x s).2) := by simp [closeOpenHandle, hh,
        closeCall_never x hn]
      rw [this, closeCall_never x hn]
      constructor
      · simp
      · simp
      · exact ⟨[.close x], .outside, by simp, rfl, by simp⟩
      · simp
      · left; simp
    · rw [closeOpenHandle_some hh hn, closeCall_done x hn]
      dsimp only
      refine (configureLink_ends a b f m (s := setOpState .uninit (setHandle none (setLine _
        (setOutBuf _ (record (.close x) (consume s)))))) ?_ ?_).after (s := s)
        rfl rfl (by simp) (by simp) (by simp)
      · simpa using hw
      · simp

theorem pulseFrom_append (p : Pulse) (a b : List Event) :
    pulseFrom p (a ++ b) = (pulseFrom p a).bind (fun q => pulseFrom q b) := by
  induction a generalizing p with
  | nil => rfl
  | cons e t ih =>
    simp only [List.cons_append, pulseFrom]
    cases h : pulseStep p e <;> simp [ih]

end Sys2Proof.Machine
end

