-- ==== Sys2Proof/Laws/Exec.lean ====
section
/-! SUPPORT. What any instruction and any step can do, said once; every whole-machine statement follows from
these inversions. -/

namespace Sys2Proof.Machine

open Sys2Proof.Safety

theorem next_injective {a b : State}
    (h : (Host.Outcome.next a : Host.Outcome State Fault Refusal) = .next b) : a = b := by
  injection h

theorem statusCode_injective {a b : Status} (h : statusCode a = statusCode b) : a = b := by
  cases a <;> cases b <;> first | rfl | (exact absurd h (by decide))

/-- Everything SEND's core can do. -/
theorem sendRequest_cases (c u : Byte) (d : List Byte) (s : State) :
    sendRequest c u d s = raise .encodingError s ∨
    (sendRequest c u d s = raise .notReady s ∧ s.opState ≠ .ready) ∨
    (s.opState = .ready ∧ ∃ f, sendRequest c u d s = transmit f s) := by
  unfold sendRequest
  split
  · exact .inl rfl
  · split
    · rename_i h; exact .inr (.inl ⟨rfl, h⟩)
    · rename_i h; exact .inr (.inr ⟨by simpa using h, _, rfl⟩)

/-- What a transmitting instruction may do once its encoder has given its data. -/
def Transmits (s t : State) : Prop :=
  t = raise .encodingError s ∨ (t = raise .notReady s ∧ s.opState ≠ .ready) ∨
    (s.opState = .ready ∧ ∃ f, t = transmit f s)

/-- Everything XMIT, SEND and the command calls can do. -/
theorem exec_transmit_cases (i : Instr) (s t : State) (hi : isTransmit i = true) (h : exec i s = .next t) :
    (isCommand i = true ∧ t = raiseOnHost s) ∨ Transmits s t := by
  have cmd : ∀ (c : Byte) (d : Option (List Byte)),
      t = runCommand c d s → t = raiseOnHost s ∨ Transmits s t := by
    intro c d hd
    cases d with
    | none => exact .inl hd
    | some d =>
      rw [hd]
      exact .inr (sendRequest_cases c _ d s)
  cases i with
  | xmit f =>
    have h := (next_injective h).symm
    by_cases hr : s.opState = .ready
    · simp [hr] at h; exact .inr (.inr (.inr ⟨hr, f, h⟩))
    · simp [hr] at h; exact .inr (.inr (.inl ⟨h, hr⟩))
  | send c u d =>
    have h := (next_injective h).symm
    rw [h]; exact .inr (sendRequest_cases c u d s)
  | _ =>
    first
    | (exfalso; simp [isTransmit] at hi; done)
    | (rcases cmd _ _ (next_injective h).symm with h | h
       · exact .inl ⟨rfl, h⟩
       · exact .inr h)

/-- The five things an instruction can do when exec gives a next state. -/
inductive ExecDid (i : Instr) (s t : State) : Prop
  /-- It answered an error, or OK with a result, and touched nothing else. -/
  | answer (e : Status) (r : List Byte) (h : i ≠ .status)
      (hc : isCommand i = false ∨ e = .encodingError ∨ e = .notReady)
      (hi : isInit i = true ∨ isTransmit i = true → e ≠ .ok)
      (ht : t = raise e s ∧ e ≠ .ok ∧ r = [] ∨ t = respond r s ∧ e = .ok)
  /-- It was STATUS. -/
  | status (h : i = .status) (ht : t = emit (statusResponse s) s)
  /-- A command encoder refused its operands on the host side. -/
  | host (h : isCommand i = true) (ht : t = raiseOnHost s)
  /-- It ran the transmit-enable sequence. -/
  | transmit (hi : isTransmit i = true) (hr : s.opState = .ready) (f : List Byte) (ht : t = transmit f s)
  /-- It was an INIT with legal operands. -/
  | init (a : Byte) (b : Word) (f : Byte) (m : Half) (hi : i = .init a b f m)
      (h1 : legalAddress a = true) (h2 : b ≠ 0#32) (h3 : f &&& 0xFE#8 = 0) (h4 : 100 ≤ m.toNat)
      (ht : t = openTransport a b f m s)

/-- Every instruction answers a next state. -/
theorem exec_next (i : Instr) (s : State) : ∃ t, exec i s = .next t := by
  cases i <;> exact ⟨_, rfl⟩

/-- Every next state of exec comes about in one of the five ways. -/
theorem exec_did (i : Instr) (s t : State) (h : exec i s = .next t) : ExecDid i s t := by
  by_cases hi : isTransmit i = true
  · have hs : i ≠ .status := by rintro rfl; simp [isTransmit] at hi
    rcases exec_transmit_cases i s t hi h with ⟨hc, rfl⟩ | rfl | ⟨rfl, -⟩ | ⟨hr, f, rfl⟩
    · exact .host hc rfl
    · exact .answer .encodingError [] hs (.inr (.inl rfl)) (by simp) (.inl ⟨rfl, by simp, rfl⟩)
    · exact .answer .notReady [] hs (.inr (.inr rfl)) (by simp) (.inl ⟨rfl, by simp, rfl⟩)
    · exact .transmit hi hr f rfl
  · cases i <;> first | (exfalso; apply hi; rfl) | (replace h := (next_injective h).symm)
    case init a b f m =>
      have enc : t = raise .encodingError s → ExecDid (.init a b f m) s t := fun h =>
        .answer .encodingError [] (by simp) (.inl rfl) (by simp) (.inl ⟨h, by simp, rfl⟩)
      split at h
      · exact enc h
      · rename_i h1
        split at h
        · exact enc h
        · rename_i h2
          split at h
          · exact enc h
          · rename_i h3
            split at h
            · exact enc h
            · rename_i h4
              exact .init a b f m rfl (by simpa using h1) h2 (by simpa [reservedFlags] using h3)
                (by omega) h
    case cksum => exact .answer .ok _ (by simp) (.inl rfl) (by simp [isInit, isTransmit]) (.inr ⟨h, rfl⟩)
    case esc =>
      split at h
      · exact .answer .encodingError [] (by simp) (.inl rfl) (by simp) (.inl ⟨h, by simp, rfl⟩)
      · exact .answer .ok _ (by simp) (.inl rfl) (by simp [isInit, isTransmit]) (.inr ⟨h, rfl⟩)
    case unesc =>
      split at h
      · exact .answer .decodeError [] (by simp) (.inl rfl) (by simp) (.inl ⟨h, by simp, rfl⟩)
      · exact .answer .ok _ (by simp) (.inl rfl) (by simp [isInit, isTransmit]) (.inr ⟨h, rfl⟩)
    case build =>
      split at h
      · exact .answer .encodingError [] (by simp) (.inl rfl) (by simp) (.inl ⟨h, by simp, rfl⟩)
      · split at h
        · exact .answer .encodingError [] (by simp) (.inl rfl) (by simp) (.inl ⟨h, by simp, rfl⟩)
        · exact .answer .ok _ (by simp) (.inl rfl) (by simp [isInit, isTransmit]) (.inr ⟨h, rfl⟩)
    case status => exact .status rfl h
    case illegalZero =>
      exact .answer .illegalRequest [] (by simp) (.inl rfl) (by simp) (.inl ⟨h, by simp, rfl⟩)
    case illegalOpcode =>
      exact .answer .illegalRequest [] (by simp) (.inl rfl) (by simp) (.inl ⟨h, by simp, rfl⟩)

/-- A command call that a reset meets ends in the reset, whatever its encoder gave. -/
theorem resetDuringCommand_reset (c : Command) (s : State) :
    ∃ u, u.inputs = s.inputs ∧ u.params = s.params ∧ resetDuringCommand c s = resetTfc u := by
  unfold resetDuringCommand
  cases expand s.params c.toInstr with
  | none => exact ⟨raiseOnHost s, rfl, rfl, rfl⟩
  | some j => exact ⟨tellHost .requestLost s, rfl, rfl, rfl⟩

/-- Everything a step that answers next can have done. -/
theorem step_cases (s t : State) (h : step s = .next t) :
    (s.waitingOn ≠ none ∧ t = resetHung s) ∨ (s.waitingOn = none ∧ s.inputs = [] ∧ t = passTime s) ∨
    (s.waitingOn = none ∧ ∃ x rest u, s.inputs = x :: rest ∧ u.inputs = rest ∧ u.params = s.params ∧
      t = resetTfc u) ∨
    (s.waitingOn = none ∧ ∃ x rest, s.inputs = x :: rest ∧
      ∃ i, exec i (setInputs rest (passTime s)) = .next t) ∨
    (s.waitingOn = none ∧ ∃ x rest, s.inputs = x :: rest ∧
      t = raise .illegalRequest (setInputs rest (passTime s))) := by
  unfold step at h
  split at h
  · rename_i c hc
    split at h
    · exact .inl ⟨by simp [hc], (next_injective h).symm⟩
    · cases h
  · rename_i hw
    split at h
    · rename_i hi; exact .inr (.inl ⟨hw, hi, (next_injective h).symm⟩)
    · rename_i rest hi
      exact .inr (.inr (.inl ⟨hw, _, rest, setInputs rest s, hi, rfl, rfl, (next_injective h).symm⟩))
    · rename_i q rest hi
      unfold serveRequest at h
      split at h
      · exact .inr (.inr (.inr (.inl ⟨hw, _, rest, hi, _, h⟩)))
      · exact .inr (.inr (.inr (.inr ⟨hw, _, rest, hi, (next_injective h).symm⟩)))
    · rename_i c rest hi
      exact .inr (.inr (.inr (.inl ⟨hw, _, rest, hi, _, h⟩)))
    · rename_i q rest hi
      exact .inr (.inr (.inl ⟨hw, _, rest, tellHost .requestLost (setInputs rest s), hi, rfl, rfl,
        (next_injective h).symm⟩))
    · rename_i c rest hi
      obtain ⟨u, hin, hp, hu⟩ := resetDuringCommand_reset c (setInputs rest s)
      exact .inr (.inr (.inl ⟨hw, _, rest, u, hi, hin, hp, (next_injective h).symm.trans hu⟩))

/-- A free TFC with something presented always has a step. -/
theorem step_next {s : State} {x : HostItem} {rest : List HostItem} (hw : s.waitingOn = none)
    (hi : s.inputs = x :: rest) : ∃ t, step s = .next t := by
  unfold step
  rw [hw, hi]
  cases x with
  | reset => exact ⟨_, rfl⟩
  | requestCut q => exact ⟨_, rfl⟩
  | commandCut c => exact ⟨_, rfl⟩
  | command c => dsimp only; cases c <;> exact ⟨_, rfl⟩
  | request q =>
    dsimp only [serveRequest]
    cases decode q with
    | error e => exact ⟨_, rfl⟩
    | ok i => cases i <;> exact ⟨_, rfl⟩

/-- A run of one step more. -/
theorem core_run_succ {s t : State} (n : Nat) (h : step s = .next t) : core.run (n + 1) s = core.run n t := by
  have h' : core.step s = .next t := h
  simp only [Host.Core.run, h']

end Sys2Proof.Machine
end

