-- ==== Sys2Proof/Laws/PerInstr.lean ====
section
/-! SUPPORT. Facts of every instruction as syntax, one lemma per constructor of Instr. -/

namespace Sys2Proof.Laws.FirstByte

open Sys2Proof Sys2Proof.Machine

/-- The opcode byte of the request an instruction is on the port (30_encoding.md R37); a pseudo-instruction is
a SEND there (R49). -/
def opcodeOf : Instr → Byte
  | .init _ _ _ _ => 0x01#8
  | .cksum _ => 0x02#8
  | .esc _ => 0x03#8
  | .unesc _ => 0x04#8
  | .build _ _ => 0x05#8
  | .xmit _ => 0x06#8
  | .send _ _ _ => 0x07#8
  | .status => 0x08#8
  | .illegalZero _ => 0x00#8
  | .illegalOpcode opcode _ => opcode
  | .simpleText _ _ _ _ _ => 0x07#8
  | .text _ _ _ _ _ _ => 0x07#8
  | .setPages _ => 0x07#8
  | .setPage _ => 0x07#8
  | .setClock _ _ _ _ _ _ => 0x07#8
  | .setClockDisplay _ _ _ _ _ _ _ _ => 0x07#8

/-- Whatever request the encoder gives for an instruction begins with the instruction's opcode. -/
def Statement (i : Instr) : Prop :=
  ∀ (p : Params) (q : List Byte), encode p i = some q → q.head? = some (opcodeOf i)

/-- An instruction that is its own request. -/
theorem of_request {p : Params} {i : Instr} {q : List Byte} (he : expand p i = some i)
    (h : encode p i = some q) : q = encodeRequest i := by
  rw [encode, he] at h
  exact (Option.some.inj h).symm

/-- An instruction whose encoder gives the data of a SEND. -/
theorem of_send {p : Params} {i : Instr} {q : List Byte} {code subcode : Byte} {d : Option (List Byte)}
    (he : expand p i = d.map (.send code subcode ·)) (h : encode p i = some q) :
    q.head? = some 0x07#8 := by
  rw [encode, he] at h
  cases d with
  | none => cases h
  | some d => rw [← Option.some.inj h]; rfl

theorem init (addr : Byte) (baud : Word) (flags : Byte) (settle : Half) :
    Statement (.init addr baud flags settle) := fun _ _ h => by rw [of_request rfl h]; rfl

theorem cksum (data : List Byte) : Statement (.cksum data) := fun _ _ h => by rw [of_request rfl h]; rfl

theorem esc (data : List Byte) : Statement (.esc data) := fun _ _ h => by rw [of_request rfl h]; rfl

theorem unesc (data : List Byte) : Statement (.unesc data) := fun _ _ h => by rw [of_request rfl h]; rfl

theorem build (addr : Byte) (payload : List Byte) : Statement (.build addr payload) :=
  fun _ _ h => by rw [of_request rfl h]; rfl

theorem xmit (frame : List Byte) : Statement (.xmit frame) := fun _ _ h => by rw [of_request rfl h]; rfl

theorem send (code subcode : Byte) (data : List Byte) : Statement (.send code subcode data) :=
  fun _ _ h => by rw [of_request rfl h]; rfl

theorem status : Statement .status := fun _ _ h => by rw [of_request rfl h]; rfl

theorem illegalZero (tail : List Byte) : Statement (.illegalZero tail) :=
  fun _ _ h => by rw [of_request rfl h]; rfl

theorem illegalOpcode (opcode : Byte) (tail : List Byte) : Statement (.illegalOpcode opcode tail) :=
  fun _ _ h => by rw [of_request rfl h]; rfl

theorem simpleText (page row col : Int) (t : Text) (align : Align) :
    Statement (.simpleText page row col t align) := fun _ _ h => of_send rfl h

theorem text (page row colStart colEnd : Int) (t : Text) (align : Align) :
    Statement (.text page row colStart colEnd t align) := fun _ _ h => of_send rfl h

theorem setPages (pairs : List (Int × Int)) : Statement (.setPages pairs) := fun _ _ h => of_send rfl h

theorem setPage (page : Int) : Statement (.setPage page) := fun _ _ h => of_send rfl h

theorem setClock (year month day hour minute second : Int) :
    Statement (.setClock year month day hour minute second) := fun _ _ h => of_send rfl h

theorem setClockDisplay (df : Name) (dr dcs dce : Int) (tf : Name) (tr tcs tce : Int) :
    Statement (.setClockDisplay df dr dcs dce tf tr tcs tce) := fun _ _ h => of_send rfl h

end Sys2Proof.Laws.FirstByte
end

