-- ==== Sys2Proof/Machine/Assembler.lean ====
section
/-! DEFINITION. The assembler syntax of 30_encoding.md R48, one request a line, and the two
pseudo-instructions whose operands are numbers only (R49). It is the host's tool: its result is what the
host presents to the TFC. -/

namespace Sys2Proof.Machine

/-- The tokens of a line. -/
inductive Token where
  | word (w : List Char)
  | comma
  | opening
  | closing
  deriving DecidableEq, Repr

/-- A word that has ended; `acc` holds its letters, last first. -/
def endWord (acc : List Char) : List Token := if acc.isEmpty then [] else [.word acc.reverse]

/-- Tokens of a line; a `;` starts a comment (R48). -/
def tokens : List Char → List Char → List Token
  | acc, [] => endWord acc
  | acc, c :: t =>
    if c = ';' then endWord acc
    else if c = ' ' || c = '\t' then endWord acc ++ tokens [] t
    else if c = ',' then endWord acc ++ .comma :: tokens [] t
    else if c = '[' then endWord acc ++ .opening :: tokens [] t
    else if c = ']' then endWord acc ++ .closing :: tokens [] t
    else tokens (c :: acc) t

/-- The value of a digit in base 16. -/
def digitValue (c : Char) : Option Nat :=
  let n := c.toNat
  if 48 ≤ n ∧ n ≤ 57 then some (n - 48)
  else if 65 ≤ n ∧ n ≤ 70 then some (n - 55)
  else if 97 ≤ n ∧ n ≤ 102 then some (n - 87)
  else none

/-- Digits in a base, most significant first, after the value read so far. -/
def digitsFrom (base : Nat) : Nat → List Char → Option Nat
  | v, [] => some v
  | v, c :: t =>
    match digitValue c with
    | some d => if d < base then digitsFrom base (v * base + d) t else none
    | none => none

/-- A number: decimal, or hexadecimal with a `0x` prefix (R48). -/
def number : List Char → Option Nat
  | [] => none
  | ['0', 'x'] => none
  | '0' :: 'x' :: t => digitsFrom 16 0 t
  | c :: t => digitsFrom 10 0 (c :: t)

/-- A number below `2 ^ n`, as a field of `n` bits. -/
def numberField (n : Nat) (w : List Char) : Option (BitVec n) :=
  match number w with
  | some v => if v < 2 ^ n then some (BitVec.ofNat n v) else none
  | none => none

/-- A byte inside brackets: two hexadecimal digits without prefix (R48). -/
def bracketByte : List Char → Option Byte
  | [a, b] => (digitsFrom 16 0 [a, b]).map (BitVec.ofNat 8)
  | _ => none

/-- The bytes of a bracketed list up to its closing bracket, which ends the line. -/
def bracketBytes : List Token → Option (List Byte)
  | [.closing] => some []
  | .word w :: t =>
    match bracketByte w, bracketBytes t with
    | some b, some r => some (b :: r)
    | _, _ => none
  | _ => none

/-- The request a line of the assembler syntax is (R48). -/
def parseRequest : List Token → Option Instr
  | [.word ['S', 'T', 'A', 'T', 'U', 'S']] => some .status
  | [.word ['I', 'N', 'I', 'T'], .word a, .comma, .word b, .comma, .word f, .comma, .word m] =>
    match numberField 8 a, numberField 32 b, numberField 8 f, numberField 16 m with
    | some a, some b, some f, some m => some (.init a b f m)
    | _, _, _, _ => none
  | .word ['C', 'K', 'S', 'U', 'M'] :: .opening :: t => (bracketBytes t).map .cksum
  | .word ['E', 'S', 'C'] :: .opening :: t => (bracketBytes t).map .esc
  | .word ['U', 'N', 'E', 'S', 'C'] :: .opening :: t => (bracketBytes t).map .unesc
  | .word ['X', 'M', 'I', 'T'] :: .opening :: t => (bracketBytes t).map .xmit
  | .word ['B', 'U', 'I', 'L', 'D'] :: .word a :: .comma :: .opening :: t =>
    match numberField 8 a, bracketBytes t with
    | some a, some p => some (.build a p)
    | _, _ => none
  | .word ['S', 'E', 'N', 'D'] :: .word c :: .comma :: .word u :: .comma :: .opening :: t =>
    match numberField 8 c, numberField 8 u, bracketBytes t with
    | some c, some u, some d => some (.send c u d)
    | _, _, _ => none
  | _ => none

/-- The pseudo-instructions with number operands (R49; log 23). -/
def parseCommand : List Token → Option Command
  | [.word ['S', 'E', 'T', '_', 'P', 'A', 'G', 'E'], .word p] =>
    (number p).map fun v => .setPage v
  | [.word ['S', 'E', 'T', '_', 'C', 'L', 'O', 'C', 'K'], .word y, .comma, .word mo, .comma, .word d, .comma,
      .word h, .comma, .word mi, .comma, .word s] =>
    match number y, number mo, number d, number h, number mi, number s with
    | some y, some mo, some d, some h, some mi, some s => some (.setClock y mo d h mi s)
    | _, _, _, _, _, _ => none
  | _ => none

/-- What the host presents for one line; none where the line is no request of R48 or its sequence does not
fit a length field (R36). -/
def assembleLine (line : List Char) : Option HostItem :=
  match parseRequest (tokens [] line) with
  | some i => if WellFormed i then some (.request (encodeRequest i)) else none
  | none => (parseCommand (tokens [] line)).map .command

end Sys2Proof.Machine
end

