-- ==== Sys2Proof/Tests/Slice0.lean ====
section
/-! SUPPORT. Tests. Expected bytes are those of 95_test_vectors.md (V<n>) or written out from the rule named;
the parameters are those of its section 0. Each witness theorem shows that the hypotheses of the statement
after which it is named can be met together, at the edge of a range where there is one. -/

namespace Sys2Proof.Tests

open Sys2Proof Sys2Proof.Machine Sys2Proof.Safety

/-! ### The parameters, states and draws of the tests -/

def bytes (l : List Nat) : List Byte := l.map (BitVec.ofNat 8)

/-- The parameters of 95_test_vectors.md, section 0. -/
def env : Params where
  baudOk          := [9600#32, 19200#32]
  teLeadMs        := 0
  writeCompletion := .onAccept
  payloadExtra    := 62
  port            := 0
  codepage        := [('A', 0x41#8), ('B', 0x42#8), ('H', 0x48#8), ('I', 0x49#8), ('!', 0x21#8)]
  align           := ⟨0x00#8, 0x01#8, 0x02#8, 0x03#8⟩
  attr            := ⟨0x01#8, 0x02#8, 0x03#8⟩
  dateFmt         := [(1, 0x01#8)]
  timeFmt         := [(2, 0x02#8)]
  durationUnit    := 0
  clockDigitOrder := .onesFirst

/-- An answer ok, with this many bytes shifted out by then. -/
def okAfter (n : Nat) : Draw := ⟨.ok, 7, 0, false, false, n⟩
def ok : Draw := okAfter 0
/-- An answer fail: `taken` bytes passed, the TE bit drawn high, its line low. -/
def failed (taken : Nat) : Draw := ⟨.fail, 0, taken, true, false, 0⟩
def lost : Draw := ⟨.never, 0, 0, false, true, 0⟩

/-- The TFC after reset, with the environment's next draws and what the host presents; no byte goes in the first gap. -/
def fresh (draws : List Draw) (inputs : List HostItem) : State :=
  { State.reset with params := env, teLine := false, draws := draws, inputs := inputs, gaps := [0] }

/-- V60's end state. -/
def ready (draws : List Draw) (inputs : List HostItem) : State :=
  { fresh draws inputs with opState := .ready, handle := some 1, addr := 0x01#8 }

/-- A TFC whose write has not returned. -/
def hung (inputs : List HostItem) : State :=
  { ready [] inputs with waitingOn := some (.write []), phase := .write }

def ask (q : List Nat) : List HostItem := [.request (bytes q)]

/-- The state after one step, if the step gives one. -/
def after (s : State) : Option State :=
  match step s with
  | .next t => some t
  | .fault _ => none
  | .refused _ => none

/-- What the host has seen after one step. -/
def seen (s : State) : Option (List HostEvent) := (after s).map State.hostLog

/-- The response to one request. -/
def answer (r : List Nat) : Option (List HostEvent) := some [.response (bytes r)]

/-- TRACE after one step. -/
def traced (s : State) : Option (List Event) := (after s).map State.trace

/-- What one step wrote to the link. -/
def written (s : State) : Option (List (List Byte)) :=
  (traced s).map fun t => t.filterMap fun e =>
    match e with
    | .write b .ok => some b
    | _ => none

def pulse (f : List Nat) : List Event :=
  [.signal true .ok, .write (bytes f) .ok, .wait 100, .signal false .ok]

/-! ### Decoding, from the formats of 30_encoding.md R38 -/

theorem test_decode_init : decode (bytes [0x01, 0x03, 0x00, 0x00, 0x4B, 0x00, 0x01, 0x00, 0x96])
    = .ok (.init 3#8 19200#32 1#8 150#16) := by decide
theorem test_decode_cksum : decode (bytes [0x02, 0x00, 0x01, 0x7D]) = .ok (.cksum [0x7D#8]) := by decide
theorem test_decode_esc : decode (bytes [0x03, 0x00, 0x01, 0x10]) = .ok (.esc [0x10#8]) := by decide
theorem test_decode_unesc : decode (bytes [0x04, 0x00, 0x02, 0x10, 0x10])
    = .ok (.unesc [0x10#8, 0x10#8]) := by decide
theorem test_decode_build : decode (bytes [0x05, 0x7F, 0x00, 0x01, 0x10]) = .ok (.build 127#8 [0x10#8]) := by
  decide
theorem test_decode_xmit : decode (bytes [0x06, 0x00, 0x01, 0x01]) = .ok (.xmit [0x01#8]) := by decide
theorem test_decode_send : decode (bytes [0x07, 0x24, 0x80, 0x00, 0x01, 0xFF])
    = .ok (.send 0x24#8 0x80#8 [0xFF#8]) := by decide
theorem test_decode_status : decode (bytes [0x08]) = .ok .status := by decide
theorem test_decode_illegal_zero : decode (bytes [0x00]) = .ok (.illegalZero []) := by decide
theorem test_decode_illegal_nine : decode (bytes [0x09]) = .ok (.illegalOpcode 0x09#8 []) := by decide
theorem test_decode_illegal_last : decode (bytes [0xFF]) = .ok (.illegalOpcode 0xFF#8 []) := by decide
/-- V48a, V48e, V48f, V48g, V48h, V48i and V28. -/
theorem test_decode_rejects : decode [] = .error .noOpcode ∧
    decode (bytes [0x08, 0x00]) = .error .lengthMismatch ∧
    decode (bytes [0x02, 0x00, 0x05, 0x11]) = .error .lengthMismatch ∧
    decode (bytes [0x01, 0x01]) = .error .lengthMismatch ∧
    decode (bytes [0x07, 0x24, 0x00]) = .error .noLengthField ∧
    decode (bytes [0x05, 0x01, 0x00]) = .error .noLengthField ∧
    decode (bytes [0x03, 0x00, 0x03, 0x00, 0x01]) = .error .lengthMismatch := by decide
theorem test_encode_set_page : encode env (.setPage 5)
    = some (bytes [0x07, 0x24, 0x00, 0x00, 0x03, 0x00, 0x05, 0xFF]) := by decide
theorem test_encode_init : encode env (.init 1#8 9600#32 0#8 100#16)
    = some (bytes [0x01, 0x01, 0x00, 0x00, 0x25, 0x80, 0x00, 0x00, 0x64]) := by decide
theorem test_table_word_init : decodeTableWord 8 0x01 = some (.init 0#8 0#32 0#8 0#16) := by decide
theorem test_table_word_text : decodeTableWord 16 0x1500 = some (.text 0 0 0 0 (.plain []) .left) := by decide

/-! ### Well-formedness: one ill-formed term for each check -/

def tooLong : List Byte := List.replicate 65536 0x00#8
theorem tooLong_length : tooLong.length = 65536 := List.length_replicate
theorem test_cksum_too_long : WellFormed (.cksum tooLong) = false := by
  simp [WellFormed, fitsLength, tooLong_length]
theorem test_esc_too_long : WellFormed (.esc tooLong) = false := by
  simp [WellFormed, fitsLength, tooLong_length]
theorem test_unesc_too_long : WellFormed (.unesc tooLong) = false := by
  simp [WellFormed, fitsLength, tooLong_length]
theorem test_build_too_long : WellFormed (.build 1#8 tooLong) = false := by
  simp [WellFormed, fitsLength, tooLong_length]
theorem test_xmit_too_long : WellFormed (.xmit tooLong) = false := by
  simp [WellFormed, fitsLength, tooLong_length]
theorem test_send_too_long : WellFormed (.send 0#8 0#8 tooLong) = false := by
  simp [WellFormed, fitsLength, tooLong_length]
theorem test_legal_opcode_is_no_illegal_row : WellFormed (.illegalOpcode 0x05#8 []) = false := by decide
theorem simple_text_bound (n : Nat) (h : 65532 ≤ n) :
    WellFormed (.simpleText 0 0 0 (.plain (List.replicate n 'A')) .left) = false := by
  simp [WellFormed, Text.encodedLength]; omega
theorem test_simple_text_too_long :
    WellFormed (.simpleText 0 0 0 (.plain (List.replicate 65532 'A')) .left) = false :=
  simple_text_bound 65532 (Nat.le_refl _)
theorem text_bound (n : Nat) (h : 65529 ≤ n) :
    WellFormed (.text 0 0 0 0 (.plain (List.replicate n 'A')) .left) = false := by
  simp [WellFormed, Text.encodedLength]; omega
theorem test_text_too_long :
    WellFormed (.text 0 0 0 0 (.plain (List.replicate 65529 'A')) .left) = false :=
  text_bound 65529 (Nat.le_refl _)
theorem set_pages_bound (n : Nat) (h : 32768 ≤ n) :
    WellFormed (.setPages (List.replicate n (0, 0))) = false := by
  simp [WellFormed]; omega
theorem test_set_pages_too_long : WellFormed (.setPages (List.replicate 32768 (0, 0))) = false :=
  set_pages_bound 32768 (Nat.le_refl _)
theorem test_wellFormed_accepts : WellFormed (.cksum []) = true ∧ WellFormed (.illegalOpcode 0x09#8 []) = true ∧
    WellFormed (.setPage 999) = true := by decide

/-! ### The framing requests -/

/-- V15. -/
theorem test_cksum_wraps : seen (fresh [] (ask [0x02, 0x00, 0x02, 0xFF, 0xFF])) = answer [0x00, 0xFE] := by
  decide
/-- V13. -/
theorem test_cksum_forces_bit : seen (fresh [] (ask [0x02, 0x00, 0x01, 0x80])) = answer [0x00, 0x80] := by
  decide
/-- V22. -/
theorem test_esc_all_specials : seen (fresh [] (ask [0x03, 0x00, 0x05, 0x02, 0x03, 0x04, 0x05, 0x10]))
    = answer [0x00, 0x00, 0x0A, 0x10, 0x02, 0x10, 0x03, 0x10, 0x04, 0x10, 0x05, 0x10, 0x10] := by decide
/-- V23. -/
theorem test_esc_neighbours :
    seen (fresh [] (ask [0x03, 0x00, 0x08, 0x00, 0x01, 0x06, 0x0F, 0x11, 0x7F, 0x80, 0xFF]))
      = answer [0x00, 0x00, 0x08, 0x00, 0x01, 0x06, 0x0F, 0x11, 0x7F, 0x80, 0xFF] := by decide
/-- V36. -/
theorem test_unesc_inner : seen (fresh [] (ask [0x04, 0x00, 0x04, 0x41, 0x10, 0x05, 0x42]))
    = answer [0x00, 0x00, 0x03, 0x41, 0x05, 0x42] := by decide
/-- V35. -/
theorem test_unesc_trailing_dle : seen (fresh [] (ask [0x04, 0x00, 0x03, 0x10, 0x10, 0x10]))
    = answer [0x05] := by decide
/-- V46, the source's worked example as the spec corrects it. -/
theorem test_build_worked_example :
    seen (fresh [] (ask [0x05, 0x01, 0x00, 0x07, 0x11, 0x00, 0x00, 0x01, 0x02, 0x03, 0x41]))
      = answer [0x00, 0x00, 0x0E, 0x04, 0x81, 0x02, 0x11, 0x00, 0x00, 0x01, 0x10, 0x02, 0x10, 0x03, 0x41,
          0x03, 0xDB] := by decide
/-- V44. -/
theorem test_build_refuses_128 : seen (fresh [] (ask [0x05, 0x80, 0x00, 0x00])) = answer [0x01] := by decide

/-! ### The link requests -/

/-- V68. -/
theorem test_init_again :
    traced (ready [ok, ok, ok] (ask [0x01, 0x03, 0x00, 0x00, 0x4B, 0x00, 0x01, 0x00, 0x96]))
      = some [.close 1, .configure 0 19200#32 .even 1 true (.ok 7), .signal false .ok] := by decide
/-- V67. -/
theorem test_init_signal_fails :
    (after (fresh [ok, failed 0, ok] (ask [0x01, 0x01, 0x00, 0x00, 0x25, 0x80, 0x00, 0x00, 0x64]))).map
      (fun t => (t.opState, t.handle, t.addr, t.lastErr, t.te))
      = some (.uninit, none, 0x00#8, .transportError, true) := by decide
/-- V79. -/
theorem test_xmit_with_lead :
    traced { ready [ok, ok, ok, ok, ok] (ask [0x06, 0x00, 0x01, 0x01]) with params := { env with teLeadMs := 2 } }
      = some [.signal true .ok, .wait 2, .write [0x01#8] .ok, .wait 100, .signal false .ok] := by decide
/-- V76. -/
theorem test_xmit_both_fail :
    (after (ready [ok, failed 2, failed 0] (ask [0x06, 0x00, 0x03, 0x04, 0x81, 0x02]))).map
      (fun t => (t.opState, t.te, t.trace, t.outBuf))
      = some (.failed, true, [.signal true .ok, .write (bytes [0x04, 0x81, 0x02]) (.fail 2), .signal false .fail],
          bytes [0x04, 0x81]) := by decide
/-- V80. -/
theorem test_send_pulse :
    traced (ready [ok, ok, ok, ok] (ask [0x07, 0x24, 0x00, 0x00, 0x03, 0x00, 0x05, 0xFF]))
      = some (pulse [0x04, 0x81, 0x02, 0x24, 0x00, 0x00, 0x10, 0x05, 0xFF, 0x03, 0xAB]) := by decide
/-- V82. -/
theorem test_send_too_long_before_not_ready :
    seen (fresh [] (ask ([0x07, 0x11, 0x00, 0x00, 0x3F] ++ List.replicate 63 0))) = answer [0x01] := by decide
/-- V92. -/
theorem test_status_failed :
    seen { ready [] (ask [0x08]) with opState := .failed, lastErr := .transportError }
      = answer [0x00, 0x02, 0x01, 0x00, 0x00, 0x25, 0x80, 0x00, 0x00, 0x64, 0x02] := by decide
/-- V94. -/
theorem test_status_keeps_lasterr :
    (after { fresh [] (ask [0x08]) with lastErr := .illegalRequest }).map State.lastErr
      = some .illegalRequest := by decide

/-! ### The illegal rows -/

/-- V48b. -/
theorem test_illegal_zero : seen (fresh [] (ask [0x00])) = answer [0x03] := by decide
/-- V48d. -/
theorem test_illegal_last : (after (fresh [] (ask [0xFF]))).map State.lastErr = some .illegalRequest := by decide
/-- V48h. -/
theorem test_malformed : seen (ready [] (ask [0x07, 0x24, 0x00])) = answer [0x03] := by decide

/-! ### The command calls -/

def call (c : Command) : State := ready [ok, ok, ok, ok] [.command c]

/-- V102. -/
theorem test_simple_text_styled :
    written (call (.simpleText 1 0 0 (.styled [⟨['H', 'I'], .value 1⟩, ⟨['!'], .value 2⟩]) .left))
      = some [bytes [0x04, 0x81, 0x02, 0x11, 0x00, 0x00, 0x01, 0x00, 0x00, 0x00, 0x01, 0x48, 0x49, 0x00, 0x10,
          0x02, 0x21, 0x03, 0xCA]] := by decide
/-- V54. -/
theorem test_simple_text_page_256 :
    seen (call (.simpleText 256 0 0 (.plain ['A']) .left)) = some [.encodingError] := by decide
/-- V101. -/
theorem test_text :
    written (call (.text 1 0 0 0x0103 (.plain ['A', 'B']) .left))
      = some [bytes [0x04, 0x81, 0x02, 0x15, 0x00, 0x00, 0x01, 0x00, 0x00, 0x00, 0x01, 0x10, 0x03, 0x41, 0x42,
          0x03, 0xA0]] := by decide
/-- R69: a character outside the codepage. -/
theorem test_text_bad_character :
    seen (call (.text 1 0 0 0 (.plain ['A', 'Z']) .left)) = some [.encodingError] := by decide
/-- V103. -/
theorem test_set_pages :
    written (call (.setPages [(1, 10), (2, 20)]))
      = some [bytes [0x04, 0x81, 0x02, 0x24, 0x00, 0x00, 0x01, 0x0A, 0x10, 0x02, 0x14, 0x03, 0xC8]] := by decide
/-- V104. -/
theorem test_set_pages_empty :
    written (call (.setPages [])) = some [bytes [0x04, 0x81, 0x02, 0x24, 0x00, 0x00, 0x03, 0xA7]] := by decide
/-- V105. -/
theorem test_set_page :
    written (call (.setPage 16))
      = some [bytes [0x04, 0x81, 0x02, 0x24, 0x00, 0x00, 0x10, 0x10, 0xFF, 0x03, 0xB6]] := by decide
/-- V50. -/
theorem test_set_clock :
    written (call (.setClock 26 11 11 16 59 5))
      = some [bytes [0x04, 0x81, 0x02, 0x3A, 0x00, 0x10, 0x05, 0x00, 0x09, 0x10, 0x05, 0x06, 0x01, 0x01, 0x01,
          0x01, 0x01, 0x06, 0x10, 0x02, 0x00, 0x03, 0xE3]] := by decide
/-- V51. -/
theorem test_set_clock_tens_first :
    written { call (.setClock 26 11 11 16 59 5) with params := { env with clockDigitOrder := .tensFirst } }
      = some [bytes [0x04, 0x81, 0x02, 0x3A, 0x00, 0x00, 0x10, 0x05, 0x10, 0x05, 0x09, 0x01, 0x06, 0x01, 0x01,
          0x01, 0x01, 0x10, 0x02, 0x06, 0x00, 0x03, 0xE3]] := by decide
/-- V53. -/
theorem test_set_clock_display :
    written (call (.setClockDisplay 1 0 0 0x40 2 1 0x41 0x78))
      = some [bytes [0x04, 0x81, 0x02, 0x3D, 0x00, 0x01, 0x00, 0x00, 0x00, 0x00, 0x40, 0x10, 0x02, 0x01, 0x00,
          0x41, 0x00, 0x78, 0x03, 0xBD]] := by decide
/-- R76: a row outside 0 to 255. -/
theorem test_set_clock_display_row :
    seen (call (.setClockDisplay 1 256 0 0 2 1 0 0)) = some [.encodingError] := by decide

/-! ### Hangs, resets and the assembler -/

/-- R66, I14: a write that never returns. -/
theorem test_write_hangs : (after (ready [ok, lost] (ask [0x06, 0x00, 0x00]))).map
    (fun t => (t.waitingOn, t.phase, t.te, t.hostLog)) = some (some (.write []), .write, true, []) := by decide
/-- R97: a reset during a request. -/
theorem test_reset_ends_hang : (after (hung [.request [], .reset])).map
    (fun t => (t.waitingOn, t.opState, t.hostLog)) = some (none, .uninit, [.requestLost]) := by decide
/-- R97: a reset during a CKSUM from READY: no response, the reset values. -/
theorem test_reset_cuts_cksum : (after (ready [] [.requestCut (bytes [0x02, 0x00, 0x00])])).map
    (fun t => (t.opState, t.handle, t.addr, t.hostLog)) = some (.uninit, none, 0x00#8, [.requestLost])
    := by decide
/-- R100: two of three bytes left by a pulse go out with TE low, before a CKSUM is answered and while idle. -/
theorem test_tail_goes_out_before_request :
    (after { ready [] (ask [0x02, 0x00, 0x00]) with outBuf := bytes [0x41, 0x03, 0xC4], gaps := [2] }).map
      (fun t => (t.outBuf, t.te, t.teLine)) = some (bytes [0xC4], false, false) := by decide
theorem test_tail_goes_out_idle :
    (after { ready [] [] with outBuf := bytes [0x41, 0x03, 0xC4], gaps := [3] }).map
      (fun t => (t.outBuf, t.te, t.teLine)) = some ([], false, false) := by decide
/-- R48's own example lines. -/
theorem test_assemble_build : assembleLine "BUILD  1, [24 00 00 05 FF]".toList
    = some (.request (bytes [0x05, 0x01, 0x00, 0x05, 0x24, 0x00, 0x00, 0x05, 0xFF])) := by decide
theorem test_assemble_send : assembleLine "SEND 0x24, 0x00, [00 05 FF] ; show page 5".toList
    = some (.request (bytes [0x07, 0x24, 0x00, 0x00, 0x03, 0x00, 0x05, 0xFF])) := by decide

/-! ### Witnesses: the hypotheses of each statement can be met -/

theorem witness_EncodedInstructionDecodesBack :
    (WellFormed (.init 0xFF#8 0xFFFFFFFF#32 0xFF#8 0xFFFF#16) = true ∧
      isCommand (.init 0xFF#8 0xFFFFFFFF#32 0xFF#8 0xFFFF#16) = false) ∧
    (WellFormed (.setPage 255) = true ∧
      expand env (.setPage 255) = some (.send 0x24#8 0x00#8 [0x00#8, 0xFF#8, 0xFF#8])) := by decide

theorem witness_DecodedRequestEncodesBack : ∃ i, decode (bytes [0x02, 0x00, 0x00]) = .ok i := ⟨.cksum [], by decide⟩

theorem witness_RequestFormatDecidesAcceptance :
    formatLength (bytes [0x07, 0x00, 0x00, 0x00, 0x01, 0xAA]) = some 6 ∧
    formatLength (bytes [0x07, 0x00, 0x00, 0x00]) = none ∧ formatLength (bytes [0x09]) = none := by decide

theorem witness_RequestLengthFoundFromFirstBytes :
    ∃ i, decode (bytes [0x06, 0x00, 0x01, 0x01]) = .ok i ∧ isIllegal i = false := ⟨.xmit [0x01#8], by decide⟩

theorem witness_StepRunsDecodedRequest :
    (fresh [] [.request [0x08#8], .reset]).waitingOn = none ∧
    (fresh [] [.request [0x08#8], .reset]).inputs = .request [0x08#8] :: [.reset] ∧
    decode [0x08#8] = .ok .status := by decide

theorem witness_StepRunsCommandCall :
    (fresh [] [.command (.setPage 5)]).waitingOn = none ∧
    (fresh [] [.command (.setPage 5)]).inputs = .command (.setPage 5) :: [] := by decide

/-- No byte at all, an illegal opcode, and one byte short. -/
theorem witness_MalformedRequestGetsIllegalRequest :
    let s := fun q => fresh [] (ask q)
    ((s []).waitingOn = none ∧ (s []).phase = .idle ∧ (s []).inputs = .request [] :: [] ∧
      formatLength (bytes []) ≠ some 0) ∧
    formatLength (bytes [0x09]) ≠ some 1 ∧ formatLength (bytes [0x02, 0x00, 0x01]) ≠ some 3 := by decide

theorem witness_IllegalRowsGetIllegalRequest : (fresh [] []).phase = .idle := by decide

theorem witness_IdleStepWaits : (fresh [] []).waitingOn = none ∧ (fresh [] []).inputs = [] := by decide

/-- A sequence at the limit and one past it; both fit a request. -/
theorem witness_EscStuffsOrRefuses :
    (fresh [] []).phase = .idle ∧ (List.replicate 64 0x00#8).length ≤ (fresh [] []).params.maxPayload ∧
    (fresh [] []).params.maxPayload < (List.replicate 65 0x00#8).length := by decide

theorem witness_UnescInvertsEscOrRefuses :
    (fresh [] []).phase = .idle ∧ stuffed [0x10#8] = [0x10#8, 0x10#8] ∧ ∀ b, stuffed b ≠ [0x10#8] := by
  refine ⟨by decide, by decide, fun b h => ?_⟩
  have hb := unescape_stuffed b
  rw [h] at hb
  cases hb

theorem witness_BuildAssemblesOrRefuses :
    (fresh [] []).phase = .idle ∧
    (1 ≤ (0x01#8).toNat ∧ (0x7F#8).toNat ≤ 127 ∧
      (List.replicate 64 0x10#8).length ≤ (fresh [] []).params.maxPayload) ∧
    (0x00#8).toNat = 0 ∧ 127 < (0x80#8).toNat ∧
    (fresh [] []).params.maxPayload < (List.replicate 65 0x10#8).length := by decide

theorem witness_ChecksumIgnoresOrderAndZeros :
    [0x01#8, 0x02#8].Perm [0x02#8, 0x01#8] ∧ 1 ≤ (0x01#8).toNat ∧ (0x7F#8).toNat ≤ 127 := by decide

theorem witness_TelegramLengthLaw : (List.replicate 64 0x10#8).length ≤ env.maxPayload := by decide

/-- SOT, STX and ETX stand bare; the payload's 03 does not; the address and checksum bytes. -/
theorem witness_BareControlBytesFrameTheTelegram :
    let t := telegram 0x7F#8 [0x03#8]
    1 ≤ (0x7F#8).toNat ∧ (0x7F#8).toNat ≤ 127 ∧
    t[0]? = some 0x04#8 ∧ t[2]? = some 0x02#8 ∧ t[4]? = some 0x03#8 ∧ t[3]? = some 0x10#8 ∧
    t[5]? = some 0x03#8 ∧ t[1]? = some 0xFF#8 ∧ t.getLast? = some 0x86#8 := by decide

/-- With no handle open, and with one. -/
theorem witness_InitOpensAndConfigures :
    let legal := 1 ≤ (0x7F#8).toNat ∧ (0x7F#8).toNat ≤ 127 ∧ 9600#32 ≠ 0#32 ∧ 0x01#8 &&& 0xFE#8 = 0x00#8 ∧
      100 ≤ (100#16).toNat
    let meets := fun s : State => s.phase = .idle ∧ 9600#32 ∈ s.params.baudOk ∧ answersOk s (closeCalls s + 2)
    legal ∧ meets (fresh [ok, ok] []) ∧ meets (ready [ok, ok, ok] []) := by decide

theorem witness_InitRefusesOperands :
    (fresh [] []).phase = .idle ∧ (0x00#8).toNat = 0 ∧ 127 < (0x80#8).toNat ∧ 0#32 = 0#32 ∧
    0x02#8 &&& 0xFE#8 ≠ 0x00#8 ∧ 0x80#8 &&& 0xFE#8 ≠ 0x00#8 ∧ (99#16).toNat < 100 := by decide

/-- A failing `configure`, a refused rate, and both from READY. -/
theorem witness_InitConfigureFailure :
    let meets := fun (s : State) (baud : Word) => s.phase = .idle ∧ (s.opState = .uninit ↔ s.handle = none) ∧
      answersOk s (closeCalls s) ∧
      ((drawAt s (closeCalls s)).outcome = .fail ∨
        ((drawAt s (closeCalls s)).outcome = .ok ∧ baud ∉ s.params.baudOk))
    meets (fresh [failed 0] []) 9600#32 ∧ meets (fresh [ok] []) 300#32 ∧
    meets (ready [ok, failed 0] []) 9600#32 ∧ meets (ready [ok, ok] []) 300#32 := by decide

theorem witness_InitSignalFailure :
    let meets := fun s : State => s.phase = .idle ∧ (s.opState = .uninit ↔ s.handle = none) ∧
      9600#32 ∈ s.params.baudOk ∧ answersOk s (closeCalls s + 1) ∧
      (drawAt s (closeCalls s + 1)).outcome = .fail ∧ (drawAt s (closeCalls s + 2)).outcome ≠ .never
    meets (fresh [ok, failed 0, ok] []) ∧ meets (ready [ok, ok, failed 0, ok] []) := by decide

/-- Each of the four calls; the last three from UNINIT and from READY, which closes a handle first. -/
theorem witness_InitHangs :
    let meets := fun s : State => s.opState = .uninit ↔ s.handle = none
    let hangs := fun (s : State) (n : Nat) => answersOk s n ∧ (drawAt s n).outcome = .never
    let closing := fun s : State => 9600#32 ∈ s.params.baudOk ∧ answersOk s (closeCalls s + 1) ∧
      (drawAt s (closeCalls s + 1)).outcome = .fail ∧ (drawAt s (closeCalls s + 2)).outcome = .never
    1 ≤ (0x7F#8).toNat ∧ (0x7F#8).toNat ≤ 127 ∧ 9600#32 ≠ 0#32 ∧ 0x01#8 &&& 0xFE#8 = 0x00#8 ∧
    100 ≤ (100#16).toNat ∧
    meets (fresh [] []) ∧ meets (ready [] []) ∧ 9600#32 ∈ env.baudOk ∧
    ((ready [lost] []).handle = some 1 ∧ (drawAt (ready [lost] []) 0).outcome = .never) ∧
    hangs (fresh [lost] []) (closeCalls (fresh [lost] [])) ∧
    hangs (ready [ok, lost] []) (closeCalls (ready [ok, lost] [])) ∧
    hangs (fresh [ok, lost] []) (closeCalls (fresh [ok, lost] []) + 1) ∧
    hangs (ready [ok, ok, lost] []) (closeCalls (ready [ok, ok, lost] []) + 1) ∧
    closing (fresh [ok, failed 0, lost] []) ∧ closing (ready [ok, ok, failed 0, lost] []) := by decide

/-- A refused INIT and one that succeeds. -/
theorem witness_InitFrame :
    (fresh [ok, ok] []).waitingOn = none ∧
    (∃ t, exec (.init 0x00#8 0#32 0#8 0#16) (fresh [] []) = .next t) ∧
    ∃ t, exec (.init 0x01#8 9600#32 0#8 100#16) (fresh [ok, ok] []) = .next t ∧ t.opState = .ready :=
  ⟨by decide, ⟨_, rfl⟩, _, rfl, by decide⟩

/-- Without and with a lead wait. -/
def leading (draws : List Draw) : State :=
  { ready draws [] with params := { env with teLeadMs := 2 } }

theorem witness_XmitMakesOnePulse :
    let meets := fun s : State => s.opState = .ready ∧ answersOk s (leadCalls s + 4)
    meets (ready [ok, ok, ok, ok] []) ∧ meets (leading [ok, ok, ok, ok, ok]) := by decide

theorem witness_TransmitNeedsReady :
    let s := fresh [] []
    s.opState ≠ .ready ∧ s.phase = .idle ∧ (List.replicate 62 0x00#8).length + 2 ≤ s.params.maxPayload := by
  decide

theorem witness_XmitFailurePaths :
    let s1 := ready [failed 0, failed 0] []
    let s2 := leading [ok, ok, failed 0, ok]
    let s3 := ready [ok, ok, ok, failed 0] []
    (s1.opState = .ready ∧ (drawAt s1 0).outcome = .fail ∧ (drawAt s1 1).outcome ≠ .never) ∧
    (s2.opState = .ready ∧ answersOk s2 (leadCalls s2 + 1) ∧
      (drawAt s2 (leadCalls s2 + 1)).outcome = .fail ∧ (drawAt s2 (leadCalls s2 + 2)).outcome ≠ .never) ∧
    (s3.opState = .ready ∧ answersOk s3 (leadCalls s3 + 3) ∧
      (drawAt s3 (leadCalls s3 + 3)).outcome = .fail) := by decide

theorem witness_XmitHangs :
    let s1 := ready [lost] []
    let s2 := leading [ok, lost]
    let s3 := ready [ok, lost] []
    let s4 := ready [ok, ok, lost] []
    let s5 := leading [ok, ok, ok, ok, lost]
    (s1.opState = .ready ∧ (drawAt s1 0).outcome = .never) ∧
    (s2.opState = .ready ∧ s2.params.teLeadMs ≠ 0 ∧ (drawAt s2 0).outcome = .ok ∧
      (drawAt s2 1).outcome = .never) ∧
    (s3.opState = .ready ∧ answersOk s3 (leadCalls s3 + 1) ∧
      (drawAt s3 (leadCalls s3 + 1)).outcome = .never) ∧
    (s4.opState = .ready ∧ answersOk s4 (leadCalls s4 + 2) ∧
      (drawAt s4 (leadCalls s4 + 2)).outcome = .never) ∧
    (s5.opState = .ready ∧ answersOk s5 (leadCalls s5 + 3) ∧
      (drawAt s5 (leadCalls s5 + 3)).outcome = .never) := by decide

theorem witness_FailPathHangs :
    let s1 := ready [failed 0, lost] []
    let s2 := leading [ok, ok, failed 2, lost]
    (s1.opState = .ready ∧ (drawAt s1 0).outcome = .fail ∧ (drawAt s1 1).outcome = .never) ∧
    (s2.opState = .ready ∧ answersOk s2 (leadCalls s2 + 1) ∧
      (drawAt s2 (leadCalls s2 + 1)).outcome = .fail ∧ (drawAt s2 (leadCalls s2 + 2)).outcome = .never) := by
  decide

theorem witness_EveryPrefixOfFailedWriteAdmitted :
    (ready [] []).opState = .ready ∧ 0 ≤ [0x01#8].length ∧ 1 ≤ [0x01#8].length := by decide

theorem witness_SendWritesTelegram :
    let s := ready [ok, ok, ok, ok] []
    s.opState = .ready ∧ (List.replicate 62 0x00#8).length + 2 ≤ s.params.maxPayload ∧
      answersOk s (leadCalls s + 4) := by decide

theorem witness_SendChecksThenTransmits :
    let s := fresh [] []
    s.phase = .idle ∧ s.params.maxPayload < (List.replicate 63 0x00#8).length + 2 ∧
    ((List.replicate 62 0x00#8).length + 2 ≤ s.params.maxPayload ∧ s.opState ≠ .ready) ∧
    (ready [] []).phase = .idle ∧ (ready [] []).opState = .ready := by decide

theorem witness_TransmitFrame :
    isTransmit (.setPage 5) = true ∧ (ready [] []).waitingOn = none ∧
    ∃ t, exec (.setPage 5) (ready [] []) = .next t := ⟨by decide, by decide, _, rfl⟩

/-- V70: 87 bytes at 9600 baud and 100 ms, and 88 under ON_SHIFTED. -/
theorem witness_WholeFrameLeavesBeforeRelease :
    let s := ready [ok, ok, ok, ok] []
    let u := { s with params := { env with writeCompletion := .onShifted } }
    (s.opState = .ready ∧ answersOk s (leadCalls s + 4) ∧ s.outBuf = [] ∧
      (List.replicate 87 0x00#8).length * 11000 ≤ s.settle.toNat * s.baud.toNat) ∧
    (u.opState = .ready ∧ answersOk u (leadCalls u + 4) ∧ u.outBuf = [] ∧
      u.params.writeCompletion = .onShifted) := by decide

theorem witness_TruncationIsAdmitted :
    let s := ready [] []
    s.opState = .ready ∧ s.params.writeCompletion = .onAccept ∧
    s.settle.toNat * s.baud.toNat < (List.replicate 88 0x00#8).length * 11000 := by decide

theorem witness_TailGoesOutWithBusReleased :
    (ready [] []).waitingOn = none ∧ (ready [] []).inputs = [] ∧
    (ready [] (ask [0x08])).waitingOn = none ∧ (ready [] (ask [0x08])).inputs = .request [0x08#8] :: [] := by
  decide

theorem witness_CommandIsOneSend :
    isCommand (.setPage 5) = true ∧
    expand (fresh [] []).params (.setPage 5) = some (.send 0x24#8 0x00#8 [0x00#8, 0x05#8, 0xFF#8]) ∧
    expand (fresh [] []).params (.setPage 256) = none := by decide

/-- The longest text that still fits, and each way of being refused. -/
theorem witness_SimpleTextSendsItsPayload :
    let s := ready [ok, ok, ok, ok] []
    (encodedText s.params (.plain (List.replicate 58 'A')) = some (List.replicate 58 0x41#8) ∧
      s.opState = .ready ∧ 4 + 58 + 2 ≤ s.params.maxPayload ∧ answersOk s (leadCalls s + 4)) ∧
    ¬ inByte 256 ∧ ¬ inByte (-1) ∧ encodedText s.params (.plain ['Z']) = none := by decide

theorem witness_TextSendsItsPayload :
    let s := ready [ok, ok, ok, ok] []
    (encodedText s.params (.styled [⟨[], .value 255⟩, ⟨['A'], .blink⟩])
        = some [0x00#8, 0xFF#8, 0x00#8, 0x01#8, 0x41#8] ∧
      s.opState = .ready ∧ 7 + 5 + 2 ≤ s.params.maxPayload ∧ answersOk s (leadCalls s + 4)) ∧
    ¬ inHalf 65536 ∧ encodedText s.params (.styled [⟨[], .value 256⟩]) = none := by decide

theorem witness_SetPagesSendsItsPairs :
    let s := ready [ok, ok, ok, ok] []
    let pairs := [(0, 0), (255, 255)]
    ((∀ x ∈ pairs, x.1 ≤ 255 ∧ x.2 ≤ 255) ∧
      s.opState = .ready ∧ 5 + 2 ≤ s.params.maxPayload ∧ answersOk s (leadCalls s + 4)) ∧
    ¬ (∀ x ∈ [((0 : Int), (256 : Int))], inByte x.1 ∧ inByte x.2) := by decide

theorem witness_SetPageIsOnePairAtFullDuration :
    let s := ready [ok, ok, ok, ok] []
    s.opState = .ready ∧ 5 ≤ s.params.maxPayload ∧ answersOk s (leadCalls s + 4) ∧
    (255 : Nat) ≤ 255 ∧ ¬ inByte 256 := by decide

theorem witness_SetClockSendsItsDigits :
    let s := ready [ok, ok, ok, ok] []
    (99 : Nat) ≤ 99 ∧ s.opState = .ready ∧ 15 ≤ s.params.maxPayload ∧ answersOk s (leadCalls s + 4) ∧
    ¬ (inClock 0 ∧ inClock 99 ∧ inClock 0 ∧ inClock 0 ∧ inClock 0 ∧ inClock 100) := by decide

theorem witness_SetClockDisplaySendsItsPlacement :
    let s := ready [ok, ok, ok, ok] []
    (s.params.dateFmt.lookup 1 = some 0x01#8 ∧ s.params.timeFmt.lookup 2 = some 0x02#8 ∧
      (255 : Nat) ≤ 255 ∧ (65535 : Nat) ≤ 65535 ∧
      s.opState = .ready ∧ 14 ≤ s.params.maxPayload ∧ answersOk s (leadCalls s + 4)) ∧
    ¬ (inByte 0 ∧ inHalf 0 ∧ inHalf 65536 ∧ inByte 0 ∧ inHalf 0 ∧ inHalf 0) := by decide

theorem witness_UnknownFormatNameRefusedOnHost :
    env.dateFmt.lookup 9 = none ∧ env.timeFmt.lookup 9 = none := by decide

theorem witness_EncodedTextBytes :
    encodedText env (.plain ['A']) = some [0x41#8] ∧
    encodedText env (.styled [⟨['A'], .invert⟩]) = some [0x00#8, 0x02#8, 0x41#8] := by decide

theorem witness_PureRequestsTouchOnlyLastErr :
    isPure (.unesc [0x10#8]) = true ∧ (fresh [] []).phase = .idle := by decide

/-- STATUS, a request that answers, and one whose call never returns. -/
theorem witness_OneResponsePerRequest :
    (isCommand .status = false ∧ (fresh [] []).waitingOn = none ∧
      ∃ t, exec .status (fresh [] []) = .next t) ∧
    (∃ t, exec (.xmit []) (fresh [] []) = .next t ∧ t.waitingOn = none) ∧
    (∃ t, exec (.xmit []) (ready [lost] []) = .next t ∧ t.waitingOn ≠ none) :=
  ⟨⟨by decide, by decide, _, rfl⟩, ⟨_, rfl, by decide⟩, ⟨_, rfl, by decide⟩⟩

theorem witness_CheckedErrorsArePrecise :
    let s := fresh [] []
    (s.phase = .idle ∧ s.waitingOn = none ∧
      ∃ t, exec (.xmit []) s = .next t ∧ t.hostLog = s.hostLog ++ [.response [statusCode .notReady]]) ∧
    (∃ t, exec (.unesc [0x10#8]) s = .next t ∧
      t.hostLog = s.hostLog ++ [.response [statusCode .decodeError]]) ∧
    (∃ t, exec (.build 0#8 []) s = .next t ∧
      t.hostLog = s.hostLog ++ [.response [statusCode .encodingError]]) ∧
    (∃ t, exec (.illegalZero []) s = .next t ∧
      t.hostLog = s.hostLog ++ [.response [statusCode .illegalRequest]]) :=
  ⟨⟨by decide, by decide, _, rfl, by decide⟩, ⟨_, rfl, by decide⟩, ⟨_, rfl, by decide⟩, ⟨_, rfl, by decide⟩⟩

/-- Into READY, back to UNINIT, into FAILED. -/
theorem witness_StateChangesOnlyByLinkRequests :
    (∃ t, exec (.init 1#8 9600#32 0#8 100#16) (fresh [ok, ok] []) = .next t ∧
      t.opState ≠ (fresh [ok, ok] []).opState) ∧
    (∃ t, exec (.init 1#8 9600#32 0#8 100#16) (ready [ok, failed 0] []) = .next t ∧
      t.opState ≠ (ready [ok, failed 0] []).opState) ∧
    (∃ t, exec (.xmit []) (ready [failed 0, ok] []) = .next t ∧
      t.opState ≠ (ready [failed 0, ok] []).opState) :=
  ⟨⟨_, rfl, by decide⟩, ⟨_, rfl, by decide⟩, ⟨_, rfl, by decide⟩⟩

theorem witness_OnlyInitConfigures :
    (ready [] []).waitingOn = none ∧ isInit (.xmit []) = false ∧
    ∃ t, exec (.xmit []) (ready [] []) = .next t := ⟨by decide, by decide, _, rfl⟩

theorem witness_StepTakesInputsInOrder :
    let s := fresh [] [.reset, .request []]
    s.waitingOn = none ∧ s.inputs = .reset :: [.request []] ∧ ∃ t, step s = .next t :=
  ⟨by decide, by decide, _, rfl⟩

theorem witness_HungTfcHoldsEveryRequest :
    (hung [.request []]).waitingOn = some (.write []) ∧ HostItem.reset ∉ (hung [.request []]).inputs := by decide

theorem witness_ResetFreesHungTfc :
    (hung [.request [], .reset]).waitingOn = some (.write []) ∧
    HostItem.reset ∈ (hung [.request [], .reset]).inputs := by decide

theorem witness_ResetBetweenRequests :
    (ready [] [.reset]).waitingOn = none ∧ (ready [] [.reset]).inputs = .reset :: [] := by decide

/-- A request without a transport call, and command calls whose encoder gives a request or refuses. -/
theorem witness_ResetEndsRequestInProgress :
    (ready [] [.requestCut (bytes [0x02, 0x00, 0x00])]).waitingOn = none ∧
    (expand env (Command.setPage 255).toInstr ≠ none ∧ expand env (Command.setPage 256).toInstr = none) ∧
    (∃ j, expand (ready [] [.commandCut (.setPage 255)]).params (Command.setPage 255).toInstr = some j) ∧
    (ready [] [.commandCut (.setPage 256)]).inputs = .commandCut (.setPage 256) :: [] :=
  ⟨by decide, by decide, ⟨_, rfl⟩, by decide⟩

/-- READY after V60, with anything presented and any draws to come. -/
theorem ready_inv (draws : List Draw) (inputs : List HostItem) : Inv (ready draws inputs) := by
  constructor <;> simp [ready, fresh, State.reset, pulseAfter, pulseFrom]

theorem witness_EveryStepKeepsTheInvariant :
    Inv (ready [ok, failed 0, ok] (ask [0x06, 0x00, 0x00])) ∧
    ∃ t, step (ready [ok, failed 0, ok] (ask [0x06, 0x00, 0x00])) = .next t ∧ t.opState = .failed :=
  ⟨ready_inv _ _, _, rfl, by decide⟩

/-- A run that ends, and one that hangs. -/
theorem witness_RunEndsOrHangs :
    (Inv (ready [] (ask [0x08])) ∧ (ready [] (ask [0x08])).waitingOn = none) ∧
    (Inv (ready [lost] (ask [0x06, 0x00, 0x00])) ∧
      (ready [lost] (ask [0x06, 0x00, 0x00])).waitingOn = none) :=
  ⟨⟨ready_inv _ _, by decide⟩, ready_inv _ _, by decide⟩

end Sys2Proof.Tests
end

section
/-! SUPPORT. The statements about the machine's state: its invariant, who writes STATE and the configuration, and
the state in which a call that never returns leaves XMIT and INIT. -/

namespace Sys2Proof.Machine

open Sys2Proof.Safety

/-! ### What keeps the invariant -/

theorem passTime_inv {s : State} (h : Inv s) : Inv (passTime s) := { h with }

theorem setInputs_inv {s : State} (q : List HostItem) (h : Inv s) : Inv (setInputs q s) := { h with }

theorem tellHost_inv {s : State} (e : HostEvent) (h : Inv s) : Inv (tellHost e s) := { h with }

theorem setLastErr_inv {s : State} (e : Status) (h : Inv s) : Inv (setLastErr e s) := { h with }

theorem setPhase_idle_inv {s : State} (h : Inv s) : Inv (setPhase .idle s) := { h with idlePhase := fun _ => rfl }

theorem respond_inv {s : State} (r : List Byte) (h : Inv s) : Inv (respond r s) :=
  tellHost_inv _ (setLastErr_inv _ h)

theorem raise_inv {s : State} (e : Status) (h : Inv s) : Inv (raise e s) :=
  tellHost_inv _ (setLastErr_inv _ (setPhase_idle_inv h))

/-- A reset leaves the invariant, whatever state it met. -/
theorem resetTfc_inv (s : State) : Inv (resetTfc s) := by
  constructor <;> simp [resetTfc, State.reset, pulseAfter, pulseFrom]

/-- A free TFC's TRACE stands outside every pulse, so events from there on decide where it stands. -/
theorem inv_pulseAfter_append {s : State} (h : Inv s) (hw : s.waitingOn = none) (es : List Event) :
    pulseAfter (s.trace ++ es) = pulseFrom .outside es := by
  rw [pulseAfter, pulseFrom_append, ← pulseAfter, h.pulseOver hw, Option.bind_some]

/-- A link operation that keeps the configuration and the pulse discipline keeps the invariant, if it opens no
handle and ends with TE low where it ends in READY. -/
theorem inv_of_linkFrame {s t : State} (h : Inv s) (hw : s.waitingOn = none) (k : LinkFrame s t)
    (htrace : ∃ es p, t.trace = s.trace ++ es ∧ pulseFrom .outside es = some p ∧
      (t.waitingOn = none → p = .outside))
    (hphase : t.waitingOn = none → t.phase = .idle)
    (hhandle : t.opState = .uninit ↔ t.handle = none)
    (hopen : t.opState ≠ .uninit → s.opState ≠ .uninit)
    (hquiet : t.opState = .ready → t.waitingOn = none → t.te = false ∧ t.teLine = false) : Inv t := by
  obtain ⟨es, p, ht, hp, hover⟩ := htrace
  have hpulse : pulseAfter t.trace = some p := by rw [ht, inv_pulseAfter_append h hw, hp]
  exact {
    idlePhase := hphase
    handleOpen := hhandle
    addrLegal := fun ho => k.addr ▸ h.addrLegal (hopen ho)
    addrTop := k.addr ▸ h.addrTop
    ctrlBits := k.ctrl ▸ h.ctrlBits
    settleMin := k.settle ▸ h.settleMin
    baudPos := k.baud ▸ h.baudPos
    quietTe := hquiet
    traceKept := by rw [hpulse]; rfl
    pulseOver := fun hn => by rw [hpulse, hover hn] }

/-- The transmit-enable sequence keeps the invariant on each of its three ends. -/
theorem transmit_inv {s : State} (f : List Byte) (h : Inv s) (hw : s.waitingOn = none) (hr : s.opState = .ready) :
    Inv (transmit f s) := by
  obtain ⟨htrace, hfin⟩ := transmit_ends f hw
  obtain ⟨hframe, hhandle⟩ := transmit_frame f s
  have hsome : s.handle ≠ none := mt h.handleOpen.mpr (by simp [hr])
  rcases hfin with ⟨hhung, -, -, ho⟩ | ⟨-, hidle, -, -, ho, hte⟩ | ⟨-, hidle, -, -, ho⟩
  · exact inv_of_linkFrame h hw hframe (htrace h.settleMin) (fun hn => absurd hn hhung)
      (by simp [ho, hr, hhandle, hsome]) (by simp [hr]) (fun _ hn => absurd hn hhung)
  · exact inv_of_linkFrame h hw hframe (htrace h.settleMin) (fun _ => hidle)
      (by simp [ho, hr, hhandle, hsome]) (by simp [hr]) (fun _ _ => hte)
  · exact inv_of_linkFrame h hw hframe (htrace h.settleMin) (fun _ => hidle)
      (by simp [ho, hhandle, hsome]) (by simp [hr]) (by simp [ho])

/-- INIT with legal operands keeps the invariant on each of its three ends. -/
theorem openTransport_inv {s : State} {a : Byte} {b : Word} {f : Byte} {m : Half} (h : Inv s)
    (hw : s.waitingOn = none) (ha : legalAddress a = true) (hb : b ≠ 0#32) (hf : f &&& 0xFE#8 = 0x00#8)
    (hm : 100 ≤ m.toNat) : Inv (openTransport a b f m s) := by
  obtain ⟨hparams, hinputs, htrace, hphase, hfin⟩ := openTransport_ends a b f m hw
  have hidle : (openTransport a b f m s).phase = .idle := hphase.elim (·.trans (h.idlePhase hw)) id
  have ⟨es, p, hes, hp, hover⟩ := htrace
  rcases hfin with ⟨hhung, -, -, haddr, hbaud, hctrl, hsettle, hlink⟩ |
    ⟨hfree, -, -, ho, hh, hte, hline, haddr, hbaud, hctrl, hsettle⟩ |
    ⟨-, -, -, -, haddr, hbaud, hctrl, hsettle, hlink⟩
  · have frame : LinkFrame s (openTransport a b f m s) :=
      ⟨hparams, haddr, hbaud, hctrl, hsettle, hinputs, es, hes⟩
    rcases hlink with ⟨ho, hh⟩ | ⟨ho, hh⟩
    · exact inv_of_linkFrame h hw frame htrace (fun _ => hidle) (by rw [ho, hh]; exact h.handleOpen)
        (by simp [ho]) (fun _ hn => absurd hn hhung)
    · exact inv_of_linkFrame h hw frame htrace (fun _ => hidle) (by simp [ho, hh]) (by simp [ho]) (by simp [ho])
  · obtain ⟨ha1, ha2⟩ := (legalAddress_iff a).mp ha
    have hpulse : pulseAfter (openTransport a b f m s).trace = some .outside := by
      rw [hes, inv_pulseAfter_append h hw, hp, hover hfree]
    exact {
      idlePhase := fun _ => hidle
      handleOpen := by simp [ho, hh]
      addrLegal := fun _ => by rw [haddr]; exact ha1
      addrTop := by rw [haddr]; exact ha2
      ctrlBits := by rw [hctrl]; exact hf
      settleMin := by rw [hsettle]; exact hm
      baudPos := by rw [hbaud]; exact hb
      quietTe := fun _ _ => ⟨hte, hline⟩
      traceKept := by rw [hpulse]; rfl
      pulseOver := fun _ => hpulse }
  · have frame : LinkFrame s (openTransport a b f m s) :=
      ⟨hparams, haddr, hbaud, hctrl, hsettle, hinputs, es, hes⟩
    obtain ⟨ho, hh⟩ : (openTransport a b f m s).opState = .uninit ∧ (openTransport a b f m s).handle = none := by
      rcases hlink with ⟨ho, hh, hs⟩ | hclosed
      · exact ⟨ho.trans (h.handleOpen.mpr hs), hh⟩
      · exact hclosed
    exact inv_of_linkFrame h hw frame htrace (fun _ => hidle) (by simp [ho, hh]) (by simp [ho]) (by simp [ho])

/-- Every instruction keeps the invariant of a free TFC. -/
theorem exec_inv {i : Instr} {s t : State} (h : Inv s) (hw : s.waitingOn = none) (he : exec i s = .next t) :
    Inv t := by
  cases exec_did i s t he with
  | answer e r _ _ _ ht =>
    rcases ht with ⟨rfl, -, -⟩ | ⟨rfl, -⟩
    · exact raise_inv e h
    · exact respond_inv r h
  | status _ ht => exact ht ▸ tellHost_inv _ h
  | host _ ht => exact ht ▸ tellHost_inv _ h
  | transmit _ hr f ht => exact ht ▸ transmit_inv f h hw hr
  | init a b f m _ h1 h2 h3 h4 ht => exact ht ▸ openTransport_inv h hw h1 h2 h3 h4

/-- Settles O60, by what each kind of step does: a reset, an idle step, an instruction or a malformed request. -/
theorem everyStepKeepsTheInvariant : Obligations.EveryStepKeepsTheInvariant := by
  intro s t h hs
  rcases step_cases s t hs with ⟨-, rfl⟩ | ⟨-, -, rfl⟩ | ⟨-, _, _, u, -, -, -, rfl⟩ |
    ⟨hw, _, rest, -, i, he⟩ | ⟨-, _, rest, -, rfl⟩
  · exact resetTfc_inv _
  · exact passTime_inv h
  · exact resetTfc_inv u
  · exact exec_inv (setInputs_inv rest (passTime_inv h)) hw he
  · exact raise_inv _ (setInputs_inv rest (passTime_inv h))

/-! ### Who writes STATE and the configuration -/

theorem tellHost_frame (e : HostEvent) (s : State) :
    LinkFrame s (tellHost e s) ∧ (tellHost e s).handle = s.handle := by
  refine ⟨?_, rfl⟩
  constructor <;> simp

/-- Settles O50: of the five things an instruction can do, only the transmit-enable sequence and INIT write STATE. -/
theorem stateChangesOnlyByLinkRequests : Obligations.StateChangesOnlyByLinkRequests := by
  intro i s t hw he hne
  cases exec_did i s t he with
  | answer e r _ _ _ ht =>
    rcases ht with ⟨rfl, -, -⟩ | ⟨rfl, -⟩
    · exact absurd rfl hne
    · exact absurd rfl hne
  | status _ ht => subst ht; exact absurd rfl hne
  | host _ ht => subst ht; exact absurd rfl hne
  | transmit hi hr f ht =>
    subst ht
    obtain ⟨-, hfin⟩ := transmit_ends f hw
    rcases hfin with ⟨-, -, -, ho⟩ | ⟨-, -, -, -, ho, -⟩ | ⟨-, -, -, hl, ho⟩
    · exact absurd ho hne
    · exact absurd ho hne
    · exact .inr ⟨hi, hr, ho, hl⟩
  | init a b f m hi _ _ _ _ ht =>
    subst ht hi
    refine .inl ⟨rfl, ?_⟩
    obtain ⟨-, -, -, -, hfin⟩ := openTransport_ends a b f m hw
    rcases hfin with ⟨-, -, -, -, -, -, -, ⟨ho, -⟩ | ⟨ho, -⟩⟩ | ⟨-, -, hl, ho, -⟩ |
      ⟨-, -, -, -, -, -, -, -, ⟨ho, -⟩ | ⟨ho, -⟩⟩
    · exact absurd ho hne
    · exact .inr ho
    · exact .inl ⟨ho, hl⟩
    · exact absurd ho hne
    · exact .inr ho

/-- Settles O51: whatever an instruction does, INIT's opening of the link aside, keeps the frame of a link operation. -/
theorem onlyInitConfigures : Obligations.OnlyInitConfigures := by
  intro i s t hw he
  have of_frame : LinkFrame s t ∧ t.handle = s.handle →
      (isInit i = false → t.addr = s.addr ∧ t.baud = s.baud ∧ t.ctrl = s.ctrl ∧ t.settle = s.settle ∧
        t.handle = s.handle) ∧ (∃ es, t.trace = s.trace ++ es) ∧ t.params = s.params :=
    fun ⟨k, hh⟩ => ⟨fun _ => ⟨k.addr, k.baud, k.ctrl, k.settle, hh⟩, k.trace, k.params⟩
  cases exec_did i s t he with
  | answer e r _ _ _ ht =>
    rcases ht with ⟨rfl, -, -⟩ | ⟨rfl, -⟩
    · exact of_frame (raise_frame e s)
    · exact of_frame (respond_frame r s)
  | status _ ht => exact of_frame (ht ▸ tellHost_frame _ s)
  | host _ ht => exact of_frame (ht ▸ tellHost_frame _ s)
  | transmit _ _ f ht => exact of_frame (ht ▸ transmit_frame f s)
  | init a b f m hi _ _ _ _ ht =>
    subst ht hi
    obtain ⟨hp, -, ⟨es, -, htrace, -⟩, -⟩ := openTransport_ends a b f m hw
    exact ⟨nofun, ⟨es, htrace⟩, hp⟩

/-! ### XMIT on a call that never returns -/

theorem exec_xmit_ready {s : State} (f : List Byte) (hr : s.opState = .ready) :
    exec (.xmit f) s = .next (transmit f s) := by
  simp [exec, execXmit, hr]

/-- What a write that passed `g` leaves in the output buffer, `n` bytes having gone, was there before it or is of
`g`. -/
theorem partWritten_suffix (s : State) (g : List Byte) (n : Nat) :
    (leadBuffer s ++ g).drop n <:+ s.outBuf ++ g :=
  (List.drop_suffix _ _).trans (suffix_append_append g (leadBuffer_suffix s))

theorem writtenBuffer_suffix (s : State) (f : List Byte) : writtenBuffer s f <:+ s.outBuf ++ f := by
  unfold writtenBuffer bufferAfterWrite
  split
  · exact List.nil_suffix
  · exact partWritten_suffix s f _

/-- Settles O28: up to the call that never returns every call answered ok, so the state it meets is known. -/
theorem xmitHangs : Obligations.XmitHangs := by
  intro s f hr
  rw [exec_xmit_ready f hr]
  refine ⟨?raise, ?lead, ?write, ?settle, ?release⟩
  case raise =>
    intro hn
    refine ⟨s.outBuf, List.suffix_refl _, congrArg _ ?_⟩
    rw [transmit_raise_never f hn, signalCall_never true (by simpa using hn)]
    apply State.ext <;> simp [busy]
  case lead =>
    intro hl h0 hn
    refine ⟨s.outBuf.drop (drawAt s 1).shifted, List.drop_suffix _ _, congrArg _ ?_⟩
    rw [transmit_raised f h0, signalCall_ok true (by simpa using h0), leadWait_some (by simpa using hl),
      waitCall_never _ (by simpa using hn), if_neg (by simp)]
    apply State.ext <;> simp [busy]
  case write =>
    intro hok hn
    refine ⟨_, partWritten_suffix s _ (drawAt s (leadCalls s + 1)).shifted, congrArg _ ?_⟩
    rw [transmit_atWrite s f hok, writeFrame_never f (by simpa using hn), writeCall_never f (by simpa using hn)]
    apply State.ext <;> simp [busy, Nat.add_assoc]
  case settle =>
    intro hok hn
    have h1 := hok (leadCalls s + 1) (by omega)
    refine ⟨(writtenBuffer s f).drop (drawAt s (leadCalls s + 2)).shifted,
      (List.drop_suffix _ _).trans (writtenBuffer_suffix s f), congrArg _ ?_⟩
    rw [transmit_atWrite s f fun n h => hok n (by omega), writeFrame_ok f (by simpa using h1),
      writeCall_ok f (by simpa using h1), holdTe_never (by simpa using hn), waitCall_never _ (by simpa using hn)]
    apply State.ext <;> simp [busy, writtenBuffer, Nat.add_assoc]
  case release =>
    intro hok hn
    have h1 := hok (leadCalls s + 1) (by omega)
    have h2 := hok (leadCalls s + 2) (by omega)
    refine ⟨heldBuffer s f, heldBuffer_suffix s f, congrArg _ ?_⟩
    rw [transmit_atWrite s f fun n h => hok n (by omega), writeFrame_ok f (by simpa using h1),
      writeCall_ok f (by simpa using h1), holdTe_done (by simp [h2]), waitCall_done _ (by simp [h2]),
      releaseTe_never (by simpa using hn), signalCall_never false (by simpa using hn)]
    apply State.ext <;> simp [busy, heldBuffer, writtenBuffer, Nat.add_assoc]

/-- Settles O29: the failed call leaves PHASE as it was, and the release attempt is the next call. -/
theorem failPathHangs : Obligations.FailPathHangs := by
  intro s f hr
  rw [exec_xmit_ready f hr]
  refine ⟨?raise, ?write⟩
  case raise =>
    intro hf hn
    refine ⟨s.outBuf, List.suffix_refl _, congrArg _ ?_⟩
    rw [transmit_raise_fail f hf, signalCall_fail true (by simpa using hf), failPath_never (by simpa using hn),
      signalCall_never false (by simpa using hn)]
    apply State.ext <;> simp [busy]
  case write =>
    intro hok hf hn
    refine ⟨_, _, rfl, partWritten_suffix s _ (drawAt s (leadCalls s + 1)).shifted, congrArg _ ?_⟩
    rw [transmit_atWrite s f hok, writeFrame_fail f (by simpa using hf), writeCall_fail f (by simpa using hf),
      failPath_never (by simpa using hn), signalCall_never false (by simpa using hn)]
    apply State.ext <;> simp [busy, Nat.add_assoc]

/-! ### INIT on a call that never returns -/

/-- The output buffer after INIT's closing of an open handle. -/
def closedBuffer (s : State) : List Byte :=
  if s.handle = none then s.outBuf else s.outBuf.drop (drawAt s 0).shifted

theorem closedBuffer_suffix (s : State) : closedBuffer s <:+ s.outBuf := by
  unfold closedBuffer
  split
  · exact List.suffix_refl _
  · exact List.drop_suffix _ _

theorem drop_closedBuffer_suffix (s : State) (n : Nat) : (closedBuffer s).drop n <:+ s.outBuf :=
  (List.drop_suffix n _).trans (closedBuffer_suffix s)

/-- The state in which INIT calls `configure`: no handle is open, the old one's close having returned. -/
def atConfigure (s : State) : State :=
  { s with
    opState := .uninit
    handle := none
    teLine := if s.handle = none then s.teLine else (drawAt s 0).line
    trace := s.trace ++ closeEvents s
    outBuf := closedBuffer s
    draws := s.draws.drop (closeCalls s)
    drawn := s.drawn + closeCalls s }

@[simp] theorem atConfigure_params (s : State) : (atConfigure s).params = s.params := rfl
@[simp] theorem atConfigure_opState (s : State) : (atConfigure s).opState = .uninit := rfl
@[simp] theorem atConfigure_te (s : State) : (atConfigure s).te = s.te := rfl
@[simp] theorem atConfigure_addr (s : State) : (atConfigure s).addr = s.addr := rfl
@[simp] theorem atConfigure_baud (s : State) : (atConfigure s).baud = s.baud := rfl
@[simp] theorem atConfigure_ctrl (s : State) : (atConfigure s).ctrl = s.ctrl := rfl
@[simp] theorem atConfigure_settle (s : State) : (atConfigure s).settle = s.settle := rfl
@[simp] theorem atConfigure_lastErr (s : State) : (atConfigure s).lastErr = s.lastErr := rfl
@[simp] theorem atConfigure_phase (s : State) : (atConfigure s).phase = s.phase := rfl
@[simp] theorem atConfigure_handle (s : State) : (atConfigure s).handle = none := rfl
@[simp] theorem atConfigure_trace (s : State) : (atConfigure s).trace = s.trace ++ closeEvents s := rfl
@[simp] theorem atConfigure_outBuf (s : State) : (atConfigure s).outBuf = closedBuffer s := rfl
@[simp] theorem atConfigure_teLine (s : State) :
    (atConfigure s).teLine = if s.handle = none then s.teLine else (drawAt s 0).line := rfl
@[simp] theorem atConfigure_waitingOn (s : State) : (atConfigure s).waitingOn = s.waitingOn := rfl
@[simp] theorem atConfigure_inputs (s : State) : (atConfigure s).inputs = s.inputs := rfl
@[simp] theorem atConfigure_hostLog (s : State) : (atConfigure s).hostLog = s.hostLog := rfl
@[simp] theorem atConfigure_draws (s : State) : (atConfigure s).draws = s.draws.drop (closeCalls s) := rfl
@[simp] theorem atConfigure_drawn (s : State) : (atConfigure s).drawn = s.drawn + closeCalls s := rfl
@[simp] theorem atConfigure_gaps (s : State) : (atConfigure s).gaps = s.gaps := rfl
@[simp] theorem atConfigure_gapsTaken (s : State) : (atConfigure s).gapsTaken = s.gapsTaken := rfl

@[simp] theorem drawAt_atConfigure (s : State) (n : Nat) :
    drawAt (atConfigure s) n = drawAt s (closeCalls s + n) := by
  simp [drawAt, List.getElem?_drop, Nat.add_assoc]

/-- INIT whose close of the old handle, if one is open, answered goes on with `configure`. -/
theorem openTransport_atConfigure {s : State} (a : Byte) (b : Word) (f : Byte) (m : Half)
    (hu : s.opState = .uninit ↔ s.handle = none) (hok : answersOk s (closeCalls s)) :
    openTransport a b f m s = configureLink a b f m (atConfigure s) := by
  have hclose : closeOpenHandle s = (true, atConfigure s) := by
    cases hh : s.handle with
    | none =>
      rw [closeOpenHandle_none hh]
      refine congrArg (Prod.mk true) ?_
      apply State.ext <;> simp [closedBuffer, closeEvents, closeCalls, hh, hu.mpr hh]
    | some x =>
      have h0 := hok 0 (by simp [closeCalls, hh])
      rw [closeOpenHandle_some hh (by simp [h0]), closeCall_done x (by simp [h0])]
      refine congrArg (Prod.mk true) ?_
      apply State.ext <;> simp [closedBuffer, closeEvents, closeCalls, hh]
  rw [openTransport, hclose]

theorem openTransport_close_never {s : State} {x : Handle} (a : Byte) (b : Word) (f : Byte) (m : Half)
    (hh : s.handle = some x) (hn : (drawAt s 0).outcome = .never) :
    openTransport a b f m s = (closeCall x s).2 := by
  simp [openTransport, closeOpenHandle, hh, closeCall_never x hn]

theorem configureLink_never (a : Byte) {b : Word} (f : Byte) (m : Half) {s : State}
    (hn : (drawAt s 0).outcome = .never) :
    configureLink a b f m s = hang .configure (configured b (exclusiveFlag f) .pending s) := by
  rw [configureLink, configureCall_never _ _ hn]

theorem configureLink_ok (a : Byte) {b : Word} (f : Byte) (m : Half) {s : State}
    (ho : (drawAt s 0).outcome = .ok) (hb : b ∈ s.params.baudOk) :
    configureLink a b f m s = adoptHandle (drawAt s 0).handle a b f m
      (configured b (exclusiveFlag f) (.ok (drawAt s 0).handle) s) := by
  rw [configureLink, configureCall_ok _ _ ho hb]

@[simp] theorem drawAt_configured (b : Word) (x : Bool) (c : ConfigureAnswer) (s : State) (n : Nat) :
    drawAt (configured b x c s) n = drawAt s (n + 1) := by
  simp [configured]

theorem adoptHandle_never (h : Handle) (a : Byte) (b : Word) (f : Byte) (m : Half) {s : State}
    (hn : (drawAt s 0).outcome = .never) : adoptHandle h a b f m s = (signalCall false s).2 := by
  rw [adoptHandle, signalCall_never false hn]

theorem adoptHandle_close_never (h : Handle) (a : Byte) (b : Word) (f : Byte) (m : Half) {s : State}
    (hf : (drawAt s 0).outcome = .fail) (hn : (drawAt s 1).outcome = .never) :
    adoptHandle h a b f m s = (closeCall h (signalCall false s).2).2 := by
  simp [adoptHandle, signalCall_fail false hf, closeCall_never, hn]

/-- Settles O23: up to the call that never returns every call but the failed `set_signal` answered ok. -/
theorem initHangs : Obligations.InitHangs := by
  intro s a b f m ha ha' hb0 hflags hm hu
  rw [execInit_legal ha ha' hb0 hflags hm]
  refine ⟨?oldClose, ?configure, ?signal, ?newClose⟩
  case oldClose =>
    intro x hh hn
    refine ⟨_, List.drop_suffix (drawAt s 0).shifted _, congrArg _ ?_⟩
    rw [openTransport_close_never a b f m hh hn, closeCall_never x hn]
    apply State.ext <;> simp [busy]
  case configure =>
    intro hok hn
    refine ⟨_, drop_closedBuffer_suffix s (drawAt s (closeCalls s)).shifted, congrArg _ ?_⟩
    rw [openTransport_atConfigure a b f m hu hok, configureLink_never a f m (by simpa using hn)]
    apply State.ext <;> simp [busy, configured, exclusiveFlag_of_reserved hflags, Nat.add_assoc]
  case signal =>
    intro hok hb hn
    have h0 := hok (closeCalls s) (by omega)
    refine ⟨_, drop_closedBuffer_suffix s (drawAt s (closeCalls s)).shifted, congrArg _ ?_⟩
    rw [openTransport_atConfigure a b f m hu fun n h => hok n (by omega),
      configureLink_ok a f m (by simpa using h0) (by simpa using hb),
      adoptHandle_never _ a b f m (by simpa using hn),
      signalCall_never false (by simpa using hn)]
    apply State.ext <;> simp [busy, configured, exclusiveFlag_of_reserved hflags, Nat.add_assoc]
  case newClose =>
    intro hok hb hf hn
    have h0 := hok (closeCalls s) (by omega)
    refine ⟨_, (List.drop_suffix (drawAt s (closeCalls s + 2)).shifted _).trans
      (drop_closedBuffer_suffix s (drawAt s (closeCalls s)).shifted), congrArg _ ?_⟩
    rw [openTransport_atConfigure a b f m hu fun n h => hok n (by omega),
      configureLink_ok a f m (by simpa using h0) (by simpa using hb),
      adoptHandle_close_never _ a b f m (by simpa using hf) (by simpa using hn),
      signalCall_fail false (by simpa using hf), closeCall_never _ (by simpa using hn)]
    apply State.ext <;> simp [busy, configured, exclusiveFlag_of_reserved hflags, Nat.add_assoc]

end Sys2Proof.Machine

end

section
/-! SUPPORT. The requests as a family (20_memory.md): the pure ones write only LASTERR, and the inputs are taken in
order. -/

namespace Sys2Proof.Machine

open Sys2Proof.Safety

/-! ### The pure requests -/

/-- R32 keeps the pure requests apart from every request that uses the link and from STATUS. -/
theorem isPure_excludes {i : Instr} (h : isPure i = true) :
    isTransmit i = false ∧ isCommand i = false ∧ isInit i = false ∧ i ≠ .status := by
  cases i with
  | cksum => exact ⟨rfl, rfl, rfl, nofun⟩
  | esc => exact ⟨rfl, rfl, rfl, nofun⟩
  | unesc => exact ⟨rfl, rfl, rfl, nofun⟩
  | build => exact ⟨rfl, rfl, rfl, nofun⟩
  | _ => cases h

/-- Settles O47: of the five things an instruction can do, a pure request can only answer, and in PHASE IDLE an
answer writes LASTERR alone. -/
theorem pureRequestsTouchOnlyLastErr : Obligations.PureRequestsTouchOnlyLastErr := by
  intro i s hpure hidle
  obtain ⟨hnotTransmit, hnotCommand, hnotInit, hnotStatus⟩ := isPure_excludes hpure
  obtain ⟨t, he⟩ := exec_next i s
  rw [he]
  cases exec_did i s t he with
  | answer e r _ _ _ ht =>
    rcases ht with ⟨rfl, -, -⟩ | ⟨rfl, -⟩
    · exact ⟨e, [], congrArg _ (raise_idle e s hidle)⟩
    · exact ⟨.ok, r, rfl⟩
  | status h _ => exact absurd h hnotStatus
  | host h _ => simp [h] at hnotCommand
  | transmit h _ _ _ => simp [h] at hnotTransmit
  | init _ _ _ _ h _ _ _ _ _ => subst h; cases hnotInit

/-! ### The order of the inputs -/

/-- No instruction takes anything from what the host presents or changes a parameter: the taking is `step`'s. -/
theorem exec_keeps_inputs {i : Instr} {s t : State} (hw : s.waitingOn = none) (he : exec i s = .next t) :
    t.inputs = s.inputs ∧ t.params = s.params := by
  have of_frame (k : LinkFrame s t) : t.inputs = s.inputs ∧ t.params = s.params := ⟨k.inputs, k.params⟩
  cases exec_did i s t he with
  | answer e r _ _ _ ht =>
    rcases ht with ⟨rfl, -, -⟩ | ⟨rfl, -⟩
    · exact of_frame (raise_frame e s).1
    · exact of_frame (respond_frame r s).1
  | status _ ht => exact of_frame (ht ▸ (tellHost_frame _ s).1)
  | host _ ht => exact of_frame (ht ▸ (tellHost_frame _ s).1)
  | transmit _ _ f ht => exact of_frame (ht ▸ (transmit_frame f s).1)
  | init a b f m _ _ _ _ _ ht =>
    subst ht
    obtain ⟨hparams, hinputs, -⟩ := openTransport_ends a b f m hw
    exact ⟨hinputs, hparams⟩

/-- Settles O52: a step of a free TFC takes the first input and then resets, runs an instruction or refuses the
request, none of which touches the rest or the parameters. -/
theorem stepTakesInputsInOrder : Obligations.StepTakesInputsInOrder := by
  intro s t x rest hfree hin hs
  have rest_unique {y : HostItem} {q : List HostItem} (h : s.inputs = y :: q) : rest = q :=
    (List.cons_eq_cons.mp (hin.symm.trans h)).2
  rcases step_cases s t hs with ⟨hbusy, -⟩ | ⟨-, hnone, -⟩ | ⟨-, _, _, u, hu, hrest, hparams, rfl⟩ |
    ⟨-, _, _, hu, i, he⟩ | ⟨-, _, _, hu, rfl⟩
  · exact absurd hfree hbusy
  · simp [hin] at hnone
  · obtain rfl := rest_unique hu
    exact ⟨hrest, hparams⟩
  · obtain rfl := rest_unique hu
    exact exec_keeps_inputs (s := setInputs rest (passTime s)) hfree he
  · obtain rfl := rest_unique hu
    exact ⟨rfl, rfl⟩

end Sys2Proof.Machine

end

section
/-! SUPPORT. The decoder and the encoder (30_encoding.md R37 to R40): each undoes the other on well-formed
instructions. -/

namespace Sys2Proof.Machine

open Sys2Proof.Safety

/-! ### The rows of the opcode map -/

/-- A byte is one of the opcodes 0 to 8 of R37, or an opcode of the second row (illegal). -/
theorem opcode_cases (opcode : Byte) :
    opcode = 0x00#8 ∨ opcode = 0x01#8 ∨ opcode = 0x02#8 ∨ opcode = 0x03#8 ∨ opcode = 0x04#8 ∨ opcode = 0x05#8 ∨
      opcode = 0x06#8 ∨ opcode = 0x07#8 ∨ opcode = 0x08#8 ∨ 9 ≤ opcode.toNat := by
  simp only [← BitVec.toNat_inj, BitVec.toNat_ofNat]
  omega

theorem decode_illegalOpcode {opcode : Byte} (h : 9 ≤ opcode.toNat) (t : List Byte) :
    decode (opcode :: t) = .ok (.illegalOpcode opcode t) := by
  obtain ⟨n, hn⟩ := Nat.exists_eq_add_of_le' h
  simp only [decode, hn]

theorem requestLength_illegalOpcode {opcode : Byte} (h : 9 ≤ opcode.toNat) (t : List Byte) :
    requestLength (opcode :: t) = none := by
  obtain ⟨n, hn⟩ := Nat.exists_eq_add_of_le' h
  simp only [requestLength, hn]

/-! ### Fields there and back -/

theorem be16_be16Value (hi lo : Byte) : be16 (be16Value hi lo) = [hi, lo] := by
  simp only [be16, be16Value, List.cons.injEq, and_true]
  constructor <;> (apply BitVec.eq_of_toNat_eq; simp; omega)

theorem be32_be32Value (b3 b2 b1 b0 : Byte) : be32 (be32Value b3 b2 b1 b0) = [b3, b2, b1, b0] := by
  simp only [be32, be32Value, List.cons.injEq, and_true]
  refine ⟨?_, ?_, ?_, ?_⟩ <;> (apply BitVec.eq_of_toNat_eq; simp; omega)

theorem be16Value_lt (hi lo : Byte) : be16Value hi lo < 2 ^ 16 := by
  unfold be16Value; omega

theorem be32Value_lt (b3 b2 b1 b0 : Byte) : be32Value b3 b2 b1 b0 < 2 ^ 32 := by
  unfold be32Value; omega

/-! ### Decoding an encoded request -/

theorem decodeInit_fields (addr : Byte) (baud : Word) (flags : Byte) (settle : Half) :
    decodeInit (addr :: (be32 baud.toNat ++ [flags] ++ be16 settle.toNat)) = .ok (.init addr baud flags settle) := by
  simp only [be32, be16, List.cons_append, List.nil_append, decodeInit, be32Value_roundtrip, be16Value_roundtrip]

/-- The decoder gives a well-formed request back from its bytes (R38). -/
theorem decode_encodeRequest {i : Instr} (hwf : WellFormed i = true) (hreq : isCommand i = false) :
    decode (encodeRequest i) = .ok i := by
  cases i with
  | init addr baud flags settle => exact decodeInit_fields addr baud flags settle
  | cksum data => exact decodeSequence_encodeSequence _ _ (length_of_fitsLength hwf)
  | esc data => exact decodeSequence_encodeSequence _ _ (length_of_fitsLength hwf)
  | unesc data => exact decodeSequence_encodeSequence _ _ (length_of_fitsLength hwf)
  | build addr payload => exact decodeSequence_encodeSequence _ _ (length_of_fitsLength hwf)
  | xmit frame => exact decodeSequence_encodeSequence _ _ (length_of_fitsLength hwf)
  | send code subcode data => exact decodeSequence_encodeSequence _ _ (length_of_fitsLength hwf)
  | status => rfl
  | illegalZero tail => rfl
  | illegalOpcode opcode tail => exact decode_illegalOpcode (by simpa [WellFormed] using hwf) tail
  | _ => cases hreq

/-! ### The request a well-formed instruction stands for -/

theorem expand_of_request (p : Params) {i : Instr} (h : isCommand i = false) : expand p i = some i := by
  cases i with
  | init | cksum | esc | unesc | build | xmit | send | status | illegalZero | illegalOpcode => rfl
  | _ => cases h

theorem simpleTextData_length {p : Params} {page row col : Int} {t : Text} {align : Align} {d : List Byte}
    (h : simpleTextData p page row col t align = some d) : d.length = t.encodedLength + 4 := by
  unfold simpleTextData at h
  split at h
  · rename_i he
    obtain rfl := Option.some.inj h
    simp [encodedText_length he]
  · cases h

theorem textData_length {p : Params} {page row colStart colEnd : Int} {t : Text} {align : Align} {d : List Byte}
    (h : textData p page row colStart colEnd t align = some d) : d.length = t.encodedLength + 7 := by
  unfold textData at h
  split at h
  · rename_i hs he ht
    obtain rfl := Option.some.inj h
    simp [halfOperand_length hs, halfOperand_length he, encodedText_length ht]
    omega
  · cases h

theorem setPagesData_length {pairs : List (Int × Int)} {d : List Byte} (h : setPagesData pairs = some d) :
    d.length = 2 * pairs.length + 1 := by
  obtain ⟨b, hb, rfl⟩ := Option.map_eq_some_iff.mp h
  simp [pairBytes_length hb]

theorem setClockData_length {p : Params} {year month day hour minute second : Int} {d : List Byte}
    (h : setClockData p year month day hour minute second = some d) : d.length = 13 := by
  unfold setClockData at h
  split at h
  · rename_i hs hmi hh hd hmo hy
    obtain rfl := Option.some.inj h
    simp [clockDigits_length hs, clockDigits_length hmi, clockDigits_length hh, clockDigits_length hd,
      clockDigits_length hmo, clockDigits_length hy]
  · cases h

theorem setClockDisplayData_length {p : Params} {df : Name} {dr dcs dce : Int} {tf : Name} {tr tcs tce : Int}
    {d : List Byte} (h : setClockDisplayData p df dr dcs dce tf tr tcs tce = some d) : d.length = 12 := by
  unfold setClockDisplayData at h
  split at h
  · rename_i _ _ hdcs hdce _ _ htcs htce
    obtain rfl := Option.some.inj h
    simp [halfOperand_length hdcs, halfOperand_length hdce, halfOperand_length htcs, halfOperand_length htce]
  · cases h

/-- Of command data that a length field can count, the one SEND is a well-formed request. -/
theorem send_wellFormed {code : Byte} {data : Option (List Byte)} {j : Instr}
    (h : data.map (.send code encoderSubcode ·) = some j) (hlen : ∀ d, data = some d → d.length ≤ 65535) :
    WellFormed j = true ∧ isCommand j = false := by
  obtain ⟨d, hd, rfl⟩ := Option.map_eq_some_iff.mp h
  exact ⟨by simpa [WellFormed, fitsLength] using hlen d hd, rfl⟩

/-- A well-formed instruction stands for a well-formed request: itself, or the SEND of its encoder's data, whose
length the encoder's operands fix (R49). -/
theorem expand_wellFormed {p : Params} {i j : Instr} (hwf : WellFormed i = true) (h : expand p i = some j) :
    WellFormed j = true ∧ isCommand j = false := by
  cases i with
  | simpleText page row col t align =>
    refine send_wellFormed h fun d hd => ?_
    rw [simpleTextData_length hd]; simpa [WellFormed] using hwf
  | text page row colStart colEnd t align =>
    refine send_wellFormed h fun d hd => ?_
    rw [textData_length hd]; simpa [WellFormed] using hwf
  | setPages pairs =>
    refine send_wellFormed h fun d hd => ?_
    rw [setPagesData_length hd]; simpa [WellFormed] using hwf
  | setPage page => exact send_wellFormed h fun d hd => by simp [setPagesData_length hd]
  | setClock => exact send_wellFormed h fun d hd => by simp [setClockData_length hd]
  | setClockDisplay => exact send_wellFormed h fun d hd => by simp [setClockDisplayData_length hd]
  | _ => obtain rfl := Option.some.inj h; exact ⟨hwf, rfl⟩

/-- Settles O1: a well-formed instruction stands for a well-formed request, and the decoder gives that back. -/
theorem encodedInstructionDecodesBack : Obligations.EncodedInstructionDecodesBack := by
  intro p i hwf
  constructor
  · intro hreq
    exact ⟨by rw [encode, expand_of_request p hreq]; rfl, decode_encodeRequest hwf hreq⟩
  · intro j hj
    obtain ⟨hwfj, hreq⟩ := expand_wellFormed hwf hj
    exact ⟨by rw [encode, hj]; rfl, decode_encodeRequest hwfj hreq⟩

/-! ### Encoding what the decoder accepts -/

theorem decodeInit_inversion {t : List Byte} {i : Instr} (h : decodeInit t = .ok i) :
    WellFormed i = true ∧ encodeRequest i = 0x01#8 :: t := by
  unfold decodeInit at h
  split at h
  · rename_i addr b3 b2 b1 b0 flags s1 s0
    obtain rfl := Except.ok.inj h
    refine ⟨rfl, ?_⟩
    simp only [encodeRequest, BitVec.toNat_ofNat, Nat.mod_eq_of_lt (be32Value_lt b3 b2 b1 b0),
      Nat.mod_eq_of_lt (be16Value_lt s1 s0), be32_be32Value, be16_be16Value]
    rfl
  · cases h

/-- What a request with a counted sequence decodes to is well-formed and has that request's bytes: `pre` are the
bytes before the length field. -/
theorem decodeSequence_encodes_back {mk : List Byte → Instr} {pre t : List Byte} {i : Instr}
    (hwf : ∀ d, WellFormed (mk d) = fitsLength d) (henc : ∀ d, encodeRequest (mk d) = pre ++ encodeSequence d)
    (h : decodeSequence mk t = .ok i) : WellFormed i = true ∧ encodeRequest i = pre ++ t := by
  obtain ⟨d, rfl, rfl, hlen⟩ := decodeSequence_inversion h
  exact ⟨by simpa [hwf, fitsLength] using hlen, henc d⟩

/-- Settles O2, by the rows of the opcode map. -/
theorem decodedRequestEncodesBack : Obligations.DecodedRequestEncodesBack := by
  rintro (_ | ⟨opcode, t⟩) i h
  · cases h
  rcases opcode_cases opcode with rfl | rfl | rfl | rfl | rfl | rfl | rfl | rfl | rfl | hop
  · obtain rfl := Except.ok.inj h; exact ⟨rfl, rfl⟩
  · exact decodeInit_inversion h
  · exact decodeSequence_encodes_back (pre := [0x02#8]) (fun _ => rfl) (fun _ => rfl) h
  · exact decodeSequence_encodes_back (pre := [0x03#8]) (fun _ => rfl) (fun _ => rfl) h
  · exact decodeSequence_encodes_back (pre := [0x04#8]) (fun _ => rfl) (fun _ => rfl) h
  · rcases t with _ | ⟨addr, t⟩
    · cases h
    · exact decodeSequence_encodes_back (pre := [0x05#8, addr]) (fun _ => rfl) (fun _ => rfl) h
  · exact decodeSequence_encodes_back (pre := [0x06#8]) (fun _ => rfl) (fun _ => rfl) h
  · rcases t with _ | ⟨code, _ | ⟨subcode, t⟩⟩
    · cases h
    · cases h
    · exact decodeSequence_encodes_back (pre := [0x07#8, code, subcode]) (fun _ => rfl) (fun _ => rfl) h
  · rcases t with _ | ⟨b, t⟩
    · obtain rfl := Except.ok.inj h; exact ⟨rfl, rfl⟩
    · cases h
  · rw [decode_illegalOpcode hop] at h
    obtain rfl := Except.ok.inj h
    exact ⟨by simpa [WellFormed] using hop, rfl⟩

end Sys2Proof.Machine

end

section
/-! SUPPORT. Which byte sequences are requests (30_encoding.md R39, R50), and what the others get (60_exceptions.md
R81). -/

namespace Sys2Proof.Machine

open Sys2Proof.Safety

/-! ### The length a request names -/

theorem lengthFieldAt_append {t : List Byte} {n : Nat} (h : lengthFieldAt t = some n) (rest : List Byte) :
    lengthFieldAt (t ++ rest) = some n := by
  rcases t with _ | ⟨hi, _ | ⟨lo, t⟩⟩
  · cases h
  · cases h
  · exact h

/-- A length field, wherever it starts, is found as well with more bytes behind it. -/
theorem map_lengthFieldAt_append {t : List Byte} {k n : Nat} (f : Nat → Nat)
    (h : (lengthFieldAt (t.drop k)).map f = some n) (rest : List Byte) :
    (lengthFieldAt ((t ++ rest).drop k)).map f = some n := by
  obtain ⟨m, hm, rfl⟩ := Option.map_eq_some_iff.mp h
  rw [List.drop_append, lengthFieldAt_append hm, Option.map_some]

/-- The bytes after a request's own do not change the length that its first bytes name (R50). -/
theorem requestLength_append {q : List Byte} {n : Nat} (h : requestLength q = some n) (rest : List Byte) :
    requestLength (q ++ rest) = some n := by
  rcases q with _ | ⟨opcode, t⟩
  · cases h
  rcases opcode_cases opcode with rfl | rfl | rfl | rfl | rfl | rfl | rfl | rfl | rfl | hop
  · cases h
  · exact h
  · exact map_lengthFieldAt_append (k := 0) (3 + ·) h rest
  · exact map_lengthFieldAt_append (k := 0) (3 + ·) h rest
  · exact map_lengthFieldAt_append (k := 0) (3 + ·) h rest
  · exact map_lengthFieldAt_append (k := 1) (4 + ·) h rest
  · exact map_lengthFieldAt_append (k := 0) (3 + ·) h rest
  · exact map_lengthFieldAt_append (k := 2) (5 + ·) h rest
  · exact h
  · rw [requestLength_illegalOpcode hop] at h; cases h

/-- The table of R38 and the rule of R50 name the same length. -/
theorem formatLength_eq_requestLength (q : List Byte) : formatLength q = requestLength q := by
  rcases q with _ | ⟨opcode, t⟩
  · rfl
  rcases opcode_cases opcode with rfl | rfl | rfl | rfl | rfl | rfl | rfl | rfl | rfl | hop
  · rfl
  · rfl
  · rcases t with _ | ⟨_, _ | _⟩ <;> rfl
  · rcases t with _ | ⟨_, _ | _⟩ <;> rfl
  · rcases t with _ | ⟨_, _ | _⟩ <;> rfl
  · rcases t with _ | ⟨_, _ | ⟨_, _ | _⟩⟩ <;> rfl
  · rcases t with _ | ⟨_, _ | _⟩ <;> rfl
  · rcases t with _ | ⟨_, _ | ⟨_, _ | ⟨_, _ | _⟩⟩⟩ <;> rfl
  · rfl
  · rw [requestLength_illegalOpcode hop]
    have hne (k : Nat) (hk : k < 9) : opcode ≠ BitVec.ofNat 8 k := by
      rintro rfl
      rw [BitVec.toNat_ofNat] at hop
      omega
    simp [formatLength, hne]

/-! ### Acceptance at exactly that length -/

/-- The fields of INIT are legal exactly when they are eight bytes. -/
theorem decodeInit_legal_iff (t : List Byte) :
    (∃ i, decodeInit t = .ok i ∧ isIllegal i = false) ↔ t.length = 8 := by
  constructor
  · rintro ⟨i, h, -⟩
    unfold decodeInit at h
    split at h
    · rfl
    · cases h
  · intro h
    match t, h with
    | [addr, b3, b2, b1, b0, flags, s1, s0], _ => exact ⟨_, rfl, rfl⟩

/-- A counted sequence behind `k` bytes is legal exactly when its length field names the request's total length. -/
theorem decodeSequence_legal_iff {mk : List Byte → Instr} (hmk : ∀ d, isIllegal (mk d) = false) (k : Nat)
    (t : List Byte) :
    (∃ i, decodeSequence mk t = .ok i ∧ isIllegal i = false) ↔
      (lengthFieldAt t).map (k + 2 + ·) = some (t.length + k) := by
  rcases t with _ | ⟨hi, _ | ⟨lo, d⟩⟩
  · simp [decodeSequence, lengthFieldAt]
  · simp [decodeSequence, lengthFieldAt]
  · by_cases h : d.length = be16Value hi lo
    · simp [decodeSequence, lengthFieldAt, h, hmk]; omega
    · simp [decodeSequence, lengthFieldAt, h]; omega

/-- A request is legal exactly when the length its first bytes name is its own (R38, R39, R50). -/
theorem decode_legal_iff (q : List Byte) :
    (∃ i, decode q = .ok i ∧ isIllegal i = false) ↔ requestLength q = some q.length := by
  rcases q with _ | ⟨opcode, t⟩
  · simp [decode, requestLength]
  rcases opcode_cases opcode with rfl | rfl | rfl | rfl | rfl | rfl | rfl | rfl | rfl | hop
  · simp [decode, requestLength, isIllegal]
  · refine (decodeInit_legal_iff t).trans ?_
    simp [requestLength]
  · exact decodeSequence_legal_iff (fun _ => rfl) 1 t
  · exact decodeSequence_legal_iff (fun _ => rfl) 1 t
  · exact decodeSequence_legal_iff (fun _ => rfl) 1 t
  · rcases t with _ | ⟨addr, t⟩
    · simp [decode, decodeBuild, requestLength, lengthFieldAt]
    · exact decodeSequence_legal_iff (fun _ => rfl) 2 t
  · exact decodeSequence_legal_iff (fun _ => rfl) 1 t
  · rcases t with _ | ⟨code, _ | ⟨subcode, t⟩⟩
    · simp [decode, decodeSend, requestLength, lengthFieldAt]
    · simp [decode, decodeSend, requestLength, lengthFieldAt]
    · exact decodeSequence_legal_iff (fun _ => rfl) 3 t
  · rcases t with _ | ⟨b, t⟩
    · simp [decode, decodeStatus, requestLength, isIllegal]
    · simp [decode, decodeStatus, requestLength]
  · simp [decode_illegalOpcode hop, requestLength_illegalOpcode hop, isIllegal]

/-- Settles O3: the table's length is the one the first bytes name. -/
theorem requestFormatDecidesAcceptance : Obligations.RequestFormatDecidesAcceptance := by
  intro q
  rw [formatLength_eq_requestLength]
  exact decode_legal_iff q

/-- Settles O4: a legal request names its own length, and bytes behind it do not change that. -/
theorem requestLengthFoundFromFirstBytes : Obligations.RequestLengthFoundFromFirstBytes := by
  intro q i rest hq hi
  exact requestLength_append ((decode_legal_iff q).mp ⟨i, hq, hi⟩) rest

/-- Settles O5, by running the decoder. -/
theorem writtenOutRequestsDecode : Obligations.WrittenOutRequestsDecode := by
  unfold Obligations.WrittenOutRequestsDecode
  decide

/-! ### What an illegal or malformed request gets -/

theorem exec_illegal {i : Instr} (h : isIllegal i = true) (s : State) :
    exec i s = .next (raise .illegalRequest s) := by
  cases i with
  | illegalZero | illegalOpcode => rfl
  | _ => cases h

/-- Settles O9: in PHASE IDLE taking an error writes LASTERR alone. -/
theorem illegalRowsGetIllegalRequest : Obligations.IllegalRowsGetIllegalRequest := by
  intro s opcode tail hidle
  have hanswer : raise .illegalRequest s = answered s .illegalRequest [0x03#8] := raise_idle _ s hidle
  exact ⟨hanswer ▸ exec_illegal rfl s, hanswer ▸ exec_illegal rfl s⟩

/-- Bytes that are no legal request are refused with ILLEGAL_REQUEST, whether the decoder rejects them or reads a
row (illegal). -/
theorem serveRequest_not_legal {q : List Byte} (h : ∀ i, decode q = .ok i → isIllegal i = true) (s : State) :
    serveRequest q s = .next (raise .illegalRequest s) := by
  unfold serveRequest
  cases hq : decode q with
  | error => rfl
  | ok i => exact exec_illegal (h i hq) s

/-- A free TFC that is presented a request serves it after the gap before it (R33, R35). -/
theorem step_request {s : State} {q : List Byte} {rest : List HostItem} (hfree : s.waitingOn = none)
    (hin : s.inputs = .request q :: rest) : step s = serveRequest q (whenServed s rest) := by
  unfold step
  rw [hfree, hin]
  rfl

/-- Settles O8: by the length law such a sequence is no legal request. -/
theorem malformedRequestGetsIllegalRequest : Obligations.MalformedRequestGetsIllegalRequest := by
  intro s q hidle hlength
  have hnotLegal : ∀ i, decode q = .ok i → isIllegal i = true := by
    intro i hi
    by_contra hlegal
    exact hlength ((requestFormatDecidesAcceptance q).mp ⟨i, hi, by simpa using hlegal⟩)
  have hserve (u : State) (hu : u.phase = .idle) :
      serveRequest q u = .next (answered u .illegalRequest [0x03#8]) := by
    rw [serveRequest_not_legal hnotLegal, raise_idle _ u hu]
    rfl
  refine ⟨hserve s hidle, fun rest hfree hin => ?_⟩
  rw [step_request hfree hin]
  exact hserve (whenServed s rest) hidle

end Sys2Proof.Machine

end

section
/-! SUPPORT. Telegrams as a receiver sees them (30_encoding.md R44, R50), SEND and the pseudo-instructions as one
telegram each (R45, R49), and the one response of a request (R35). -/

namespace Sys2Proof.Machine

open Sys2Proof.Safety

/-! ### Telegrams -/

/-- A telegram's length (R44). -/
theorem telegram_length (a : Byte) (p : List Byte) : (telegram a p).length = p.length + specials p + 5 := by
  simp [telegram, escape_eq_stuffed, stuffed_length]

theorem specials_le_length (p : List Byte) : specials p ≤ p.length := List.countP_le_length

theorem maxPayload_le (m : Params) : m.maxPayload ≤ 32765 := by
  have := m.payloadExtra.isLt
  unfold Params.maxPayload
  omega

/-- Settles O16, from the length law and the bounds on the special bytes and on P_MAX_PAYLOAD. -/
theorem telegramLengthLaw : Obligations.TelegramLengthLaw := by
  intro a p
  have hlen := telegram_length a p
  have hspec := specials_le_length p
  refine ⟨hlen, by omega, by omega, fun m hp => ?_⟩
  have hmax := maxPayload_le m
  omega

/-- Behind its three header bytes a telegram is the stuffed payload, ETX and the checksum (R43). -/
theorem telegram_drop_header (a : Byte) (p : List Byte) :
    (telegram a p).drop 3 = stuffed p ++ [ETX, checksum (p ++ [ETX])] := by
  simp [telegram, escape_eq_stuffed]

/-- Settles O18: the payload is stuffed, so the first ETX that no DLE escapes is the telegram's own. -/
theorem receiverFindsTelegramEnd : Obligations.ReceiverFindsTelegramEnd := by
  intro a p rest
  have hlen : (telegram a p).length = (stuffed p).length + 5 := by rw [telegram_length, stuffed_length]
  have hstream : (telegram a p ++ rest).drop 3 = stuffed p ++ ETX :: (checksum (p ++ [ETX]) :: rest) := by
    rw [List.drop_append_of_le_length (by omega), telegram_drop_header, List.append_assoc]
    rfl
  constructor
  · simp [telegramLength, hstream, unescapedEtxAt_stuffed, hlen]
  · rw [telegram_drop_header, hlen, Nat.add_sub_cancel, List.take_left, unescape_stuffed]

/-! ### SEND and the pseudo-instructions -/

/-- Settles O31: in READY and within the limit SEND is the transmit of its telegram, which with ok answers is one
pulse. -/
theorem sendWritesTelegram : Obligations.SendWritesTelegram := by
  intro s code subcode data hready hlen hok
  refine ⟨heldBuffer s (telegramOf s.addr ([code, subcode] ++ data)), heldBuffer_suffix s _, ?_⟩
  rw [← transmit_all_ok s _ hok, ← sendRequest_ready s code subcode data hready hlen]
  rfl

/-- A pseudo-instruction is a command code and its encoder's data: it stands for the SEND of the data, and running it
is running that command call (R49, R68). -/
theorem command_runs {i : Instr} (h : isCommand i = true) (s : State) :
    ∃ code data, expand s.params i = data.map (.send code 0x00#8 ·) ∧ exec i s = .next (runCommand code data s) := by
  cases i with
  | simpleText | text | setPages | setPage | setClock | setClockDisplay => exact ⟨_, _, rfl, rfl⟩
  | _ => cases h

/-- Settles O38, by whether the encoder gives data. -/
theorem commandIsOneSend : Obligations.CommandIsOneSend := by
  intro i s hi
  obtain ⟨code, data, hexpand, hexec⟩ := command_runs hi s
  rw [hexpand, hexec]
  cases data with
  | none => exact ⟨nofun, fun _ => rfl⟩
  | some d =>
    refine ⟨fun j hj => ?_, nofun⟩
    obtain rfl := Option.some.inj hj
    exact ⟨⟨code, d, rfl⟩, rfl⟩

/-! ### One response -/

/-- Every request but STATUS sends one response, which begins with the status it leaves in LASTERR, or hangs and leaves
both as they were: an answer is one response, and the transmit-enable sequence and INIT end in one or in a hang. -/
theorem exec_responds_or_hangs {i : Instr} {s t : State} (hreq : isCommand i = false) (hne : i ≠ .status)
    (hfree : s.waitingOn = none) (he : exec i s = .next t) :
    (t.waitingOn = none ∧ ∃ r, t.hostLog = s.hostLog ++ [.response (statusCode t.lastErr :: r)]) ∨
      (t.waitingOn ≠ none ∧ t.hostLog = s.hostLog ∧ t.lastErr = s.lastErr) := by
  cases exec_did i s t he with
  | answer e r _ _ _ ht =>
    rcases ht with ⟨rfl, -, -⟩ | ⟨rfl, -⟩
    · exact .inl ⟨hfree, [], rfl⟩
    · exact .inl ⟨hfree, r, rfl⟩
  | status h _ => exact absurd h hne
  | host h _ => simp [hreq] at h
  | transmit _ _ f ht =>
    subst ht
    obtain ⟨-, hfin⟩ := transmit_ends f hfree
    rcases hfin with ⟨hw, hlog, hl, -⟩ | ⟨hw, -, hlog, hl, -⟩ | ⟨hw, -, hlog, hl, -⟩
    · exact .inr ⟨hw, hlog, hl⟩
    · exact .inl ⟨hw, [], by rw [hlog, hl]; rfl⟩
    · exact .inl ⟨hw, [], by rw [hlog, hl]; rfl⟩
  | init a b f m _ _ _ _ _ ht =>
    subst ht
    obtain ⟨-, -, -, -, hfin⟩ := openTransport_ends a b f m hfree
    rcases hfin with ⟨hw, hlog, hl, -⟩ | ⟨hw, hlog, hl, -⟩ | ⟨hw, -, hlog, hl, -⟩
    · exact .inr ⟨hw, hlog, hl⟩
    · exact .inl ⟨hw, [], by rw [hlog, hl]; rfl⟩
    · exact .inl ⟨hw, [], by rw [hlog, hl]; rfl⟩

/-- Settles O48: STATUS makes no transport call and answers OK without writing LASTERR; every other request responds
or hangs. -/
theorem oneResponsePerRequest : Obligations.OneResponsePerRequest := by
  intro i s t hreq hfree he
  by_cases hstatus : i = .status
  · subst hstatus
    obtain rfl := next_injective he
    exact .inl ⟨hfree, _, fun _ => ⟨rfl, rfl⟩, fun hne => absurd rfl hne⟩
  · rcases exec_responds_or_hangs hreq hstatus hfree he with ⟨hw, r, hlog⟩ | hhung
    · exact .inl ⟨hw, r, fun h => absurd h hstatus, fun _ => hlog⟩
    · exact .inr hhung

end Sys2Proof.Machine

end

section
/-! SUPPORT. The framing requests CKSUM, ESC, UNESC and BUILD (40_framing.md R51 to R54), the arithmetic of the
checksum and of the address byte (R58), and where the control bytes of a telegram stand (R57). -/

namespace Sys2Proof.Machine

open Sys2Proof.Safety

/-! ### Counted sequences in requests and responses -/

theorem counted_eq_encodeSequence (b : List Byte) : counted b = encodeSequence b := by
  rw [counted, encodeSequence, be16_bytes]

theorem respond_eq_answered (r : List Byte) (s : State) : respond r s = answered s .ok ([0x00#8] ++ r) := rfl

theorem respondSequence_eq_answered (r : List Byte) (s : State) :
    respondSequence r s = answered s .ok ([0x00#8] ++ counted r) := by
  rw [respondSequence, respond_eq_answered, counted_eq_encodeSequence, encodeSequence]

/-! ### CKSUM -/

theorem exec_cksum (b : List Byte) (s : State) : exec (.cksum b) s = .next (respond [checksum b] s) := rfl

/-- Settles O11: the response carries the model's checksum, which is the sum of R51 in arithmetic. -/
theorem cksumAnswersForcedSum : Obligations.CksumAnswersForcedSum := by
  intro s b
  constructor
  · intro hlen
    rw [counted_eq_encodeSequence]
    exact decodeSequence_encodeSequence .cksum b hlen
  · rw [exec_cksum, checksum_eq_checksumOf]
    rfl

/-! ### ESC -/

theorem exec_esc_within {s : State} {b : List Byte} (h : b.length ≤ s.params.maxPayload) :
    exec (.esc b) s = .next (respondSequence (escape b) s) := by
  simp [exec, execEsc, exceedsPayload_of_le h]

theorem exec_esc_beyond {s : State} {b : List Byte} (h : s.params.maxPayload < b.length) :
    exec (.esc b) s = .next (raise .encodingError s) := by
  simp [exec, execEsc, exceedsPayload_of_lt h]

/-- Settles O12, on either side of P_MAX_PAYLOAD. -/
theorem escStuffsOrRefuses : Obligations.EscStuffsOrRefuses := by
  intro s b hidle
  refine ⟨fun hlen => ?_, fun hle => ?_, fun hlt => ?_⟩
  · rw [counted_eq_encodeSequence]
    exact decodeSequence_encodeSequence .esc b hlen
  · rw [exec_esc_within hle, respondSequence_eq_answered, escape_eq_stuffed]
  · rw [exec_esc_beyond hlt, raise_idle _ s hidle]
    rfl

/-! ### UNESC -/

/-- UNESC accepts exactly the stuffed sequences, each as the stuffing of its own result (R53). -/
theorem unescape_eq_some_iff {c b : List Byte} : unescape c = some b ↔ stuffed b = c := by
  constructor
  · exact (stuffed_of_unescapeFrom c b).1
  · rintro rfl
    exact unescape_stuffed b

theorem exec_unesc_accepts {c b : List Byte} (h : unescape c = some b) (s : State) :
    exec (.unesc c) s = .next (respondSequence b s) := by
  simp [exec, execUnesc, h]

theorem exec_unesc_refuses {c : List Byte} (h : unescape c = none) (s : State) :
    exec (.unesc c) s = .next (raise .decodeError s) := by
  simp [exec, execUnesc, h]

/-- Settles O13, by whether the sequence is the stuffing of something. -/
theorem unescInvertsEscOrRefuses : Obligations.UnescInvertsEscOrRefuses := by
  intro s c hidle
  refine ⟨fun hlen => ?_, fun b hb => ?_, fun hno => ?_⟩
  · rw [counted_eq_encodeSequence]
    exact decodeSequence_encodeSequence .unesc c hlen
  · rw [exec_unesc_accepts (unescape_eq_some_iff.mpr hb), respondSequence_eq_answered]
  · have hnone : unescape c = none :=
      Option.eq_none_iff_forall_ne_some.mpr fun b hb => hno b (unescape_eq_some_iff.mp hb)
    rw [exec_unesc_refuses hnone, raise_idle _ s hidle]
    rfl

/-! ### BUILD -/

theorem exec_build_legal {s : State} {a : Byte} {p : List Byte} (ha : legalAddress a = true)
    (hp : p.length ≤ s.params.maxPayload) : exec (.build a p) s = .next (respondSequence (telegram a p) s) := by
  simp [exec, execBuild, ha, exceedsPayload_of_le hp]

theorem exec_build_illegal {s : State} {a : Byte} {p : List Byte}
    (h : legalAddress a = false ∨ s.params.maxPayload < p.length) :
    exec (.build a p) s = .next (raise .encodingError s) := by
  rcases h with ha | hp
  · simp [exec, execBuild, ha]
  · simp [exec, execBuild, exceedsPayload_of_lt hp]

/-- Settles O14: the operands pass both checks, or fail the address check or the limit. -/
theorem buildAssemblesOrRefuses : Obligations.BuildAssemblesOrRefuses := by
  intro s a p hidle
  refine ⟨fun hlen => ?_, fun h1 h127 hp => ?_, fun hbad => ?_⟩
  · rw [counted_eq_encodeSequence]
    exact decodeSequence_encodeSequence (.build a) p hlen
  · rw [exec_build_legal (legalAddress_of_range h1 h127) hp, respondSequence_eq_answered, telegram_eq_telegramOf]
  · have hillegal : legalAddress a = false ∨ s.params.maxPayload < p.length :=
      (or_assoc.mpr hbad).imp_left legalAddress_out_of_range
    rw [exec_build_illegal hillegal, raise_idle _ s hidle]
    rfl

/-! ### The arithmetic of checksum and address byte -/

theorem checksum_toNat (b : List Byte) : (checksum b).toNat = (b.map BitVec.toNat).sum % 128 + 128 := by
  rw [checksum_eq_checksumOf, checksumOf_toNat]

/-- The checksum is a function of the byte sum. -/
theorem checksum_eq_of_sum_eq {b c : List Byte} (h : (b.map BitVec.toNat).sum = (c.map BitVec.toNat).sum) :
    checksum b = checksum c := by
  apply BitVec.eq_of_toNat_eq
  rw [checksum_toNat, checksum_toNat, h]

theorem addressByte_toNat {a : Byte} (h : a.toNat ≤ 127) : (ADDRFLAG ||| a).toNat = a.toNat + 128 := by
  have hflag := or_flag_toNat a.toNat
  rw [ofNat_mod_256, BitVec.ofNat_toNat, BitVec.setWidth_eq, BitVec.or_comm] at hflag
  rw [ADDRFLAG, hflag, Nat.mod_eq_of_lt (by omega)]

theorem telegram_addressByte (a : Byte) (p : List Byte) : (telegram a p)[1]? = some (ADDRFLAG ||| a) := rfl

/-- Settles O15: order and appended zeros leave the byte sum as it is, and the top bit of a legal address is 0. -/
theorem checksumIgnoresOrderAndZeros : Obligations.ChecksumIgnoresOrderAndZeros := by
  refine ⟨fun b c hperm => ?_, fun b => ?_, checksum_toNat, fun a p _ h127 => ?_⟩
  · exact checksum_eq_of_sum_eq (hperm.map _).sum_eq
  · exact checksum_eq_of_sum_eq (by simp)
  · exact ⟨_, telegram_addressByte a p, addressByte_toNat h127⟩

/-! ### The control bytes of a telegram -/

/-- A byte 02 to 05 of a stuffed payload stands right after a byte 10: stuffing lets no bare one through. -/
theorem stuffed_control_after_dle {p : List Byte} {i : Nat} {x : Byte} (hx : (stuffed p)[i]? = some x)
    (hctl : x ∈ [0x02#8, 0x03#8, 0x04#8, 0x05#8]) : ∃ j, i = j + 1 ∧ (stuffed p)[j]? = some 0x10#8 := by
  induction p generalizing i with
  | nil => cases hx
  | cons y t ih =>
    by_cases hy : y ∈ [0x02#8, 0x03#8, 0x04#8, 0x05#8, 0x10#8]
    · rw [stuffed_cons_special t hy] at hx ⊢
      match i with
      | 0 =>
        obtain rfl := Option.some.inj hx
        exact absurd hctl (by decide)
      | 1 => exact ⟨0, rfl, rfl⟩
      | k + 2 =>
        obtain ⟨j, rfl, hj⟩ := ih hx
        exact ⟨j + 2, rfl, hj⟩
    · rw [stuffed_cons_plain t hy] at hx ⊢
      match i with
      | 0 =>
        obtain rfl := Option.some.inj hx
        exact absurd (List.mem_append_left [0x10#8] hctl) hy
      | k + 1 =>
        obtain ⟨j, rfl, hj⟩ := ih hx
        exact ⟨j + 1, rfl, hj⟩

theorem control_toNat_le {x : Byte} (h : x ∈ [0x02#8, 0x03#8, 0x04#8, 0x05#8]) : x.toNat ≤ 5 := by
  simp only [List.mem_cons, List.not_mem_nil, or_false] at h
  rcases h with rfl | rfl | rfl | rfl <;> decide

/-- Behind the header, byte k + 3 of a telegram is byte k of the stuffed payload, ETX and the checksum (R43). -/
theorem telegram_getElem?_add_three (a : Byte) (p : List Byte) (k : Nat) :
    (telegram a p)[k + 3]? = (stuffed p ++ [ETX, checksum (p ++ [ETX])])[k]? := by
  rw [← telegram_drop_header a p, List.getElem?_drop, Nat.add_comm]

theorem telegram_length_stuffed (a : Byte) (p : List Byte) : (telegram a p).length = (stuffed p).length + 5 := by
  rw [telegram_length, stuffed_length]

theorem telegram_getElem?_stuffed (a : Byte) {p : List Byte} {k : Nat} (h : k < (stuffed p).length) :
    (telegram a p)[k + 3]? = (stuffed p)[k]? := by
  rw [telegram_getElem?_add_three, List.getElem?_append_left h]

theorem telegram_etx (a : Byte) (p : List Byte) : (telegram a p)[(telegram a p).length - 2]? = some ETX := by
  rw [telegram_length_stuffed]
  exact (telegram_getElem?_add_three a p _).trans (by simp)

theorem telegram_checksumByte (a : Byte) (p : List Byte) :
    (telegram a p).getLast? = some (checksum (p ++ [ETX])) := by
  rw [telegram, List.getLast?_append]
  rfl

/-- A byte 02 to 05 of a telegram is SOT, STX or ETX in its place, or a stuffed byte of the payload. -/
theorem telegram_control_place {a : Byte} {p : List Byte} {i : Nat} {x : Byte} (ha : a.toNat ≤ 127)
    (hx : (telegram a p)[i]? = some x) (hctl : x ∈ [0x02#8, 0x03#8, 0x04#8, 0x05#8]) :
    i = 0 ∨ i = 2 ∨ i + 2 = (telegram a p).length ∨ (telegram a p)[i - 1]? = some 0x10#8 := by
  have hsmall := control_toNat_le hctl
  match i with
  | 0 => exact .inl rfl
  | 1 =>
    obtain rfl := Option.some.inj ((telegram_addressByte a p).symm.trans hx)
    rw [addressByte_toNat ha] at hsmall
    omega
  | 2 => exact .inr (.inl rfl)
  | k + 3 =>
    rcases lt_trichotomy k (stuffed p).length with hk | hk | hk
    · rw [telegram_getElem?_stuffed a hk] at hx
      obtain ⟨j, rfl, hj⟩ := stuffed_control_after_dle hx hctl
      exact .inr (.inr (.inr ((telegram_getElem?_stuffed a (by omega)).trans hj)))
    · exact .inr (.inr (.inl (by rw [telegram_length_stuffed]; omega)))
    · have hlast : k + 3 = (telegram a p).length - 1 := by
        obtain ⟨hbound, -⟩ := List.getElem?_eq_some_iff.mp hx
        rw [telegram_length_stuffed] at hbound ⊢
        omega
      rw [hlast, ← List.getLast?_eq_getElem?, telegram_checksumByte] at hx
      obtain rfl := Option.some.inj hx
      rw [checksum_toNat] at hsmall
      omega

/-- Settles O17: a byte's place in the telegram says which of SOT, address, STX, stuffed payload, ETX and checksum it
is; the address and the checksum byte have bit 7 set. -/
theorem bareControlBytesFrameTheTelegram : Obligations.BareControlBytesFrameTheTelegram := by
  intro a p _ h127
  refine ⟨⟨rfl, rfl, telegram_etx a p⟩, fun i x => telegram_control_place h127, fun x hx => ?_, fun x hx => ?_⟩
  · obtain rfl := Option.some.inj ((telegram_addressByte a p).symm.trans hx)
    rw [addressByte_toNat h127]
    omega
  · obtain rfl := Option.some.inj ((telegram_checksumByte a p).symm.trans hx)
    rw [checksum_toNat]
    omega

end Sys2Proof.Machine

end

section
/-! SUPPORT. The link requests (41_link.md): INIT by how its calls answer, the pulse of XMIT and its failures, SEND's
checks, STATUS, and what each leaves unchanged. -/

namespace Sys2Proof.Machine

open Sys2Proof.Safety

/-! ### INIT -/

/-- An operand that fails one of R59's checks is refused before the transport is touched: a legal address, rate and
flags byte leave only the settle time to be at fault. -/
theorem execInit_illegal {s : State} {a : Byte} {b : Word} {f : Byte} {m : Half}
    (h : a.toNat = 0 ∨ 127 < a.toNat ∨ b = 0#32 ∨ f &&& 0xFE#8 ≠ 0x00#8 ∨ m.toNat < 100) :
    exec (.init a b f m) s = .next (raise .encodingError s) := by
  have hillegal : legalAddress a = true → b ≠ 0#32 → f &&& 0xFE#8 = 0x00#8 → m.toNat < 100 := by
    intro ha hb hf
    obtain ⟨ha1, ha2⟩ := (legalAddress_iff a).mp ha
    rcases h with h | h | h | h | h
    · omega
    · omega
    · exact absurd h hb
    · exact absurd hf h
    · exact h
  refine congrArg Host.Outcome.next ?_
  split_ifs with hla hb hf hm
  · rfl
  · rfl
  · rfl
  · rfl
  · exact absurd (hillegal (by simpa using hla) hb (by simpa [reservedFlags] using hf)) hm

/-- Settles O20: one of the four checks refuses, and in PHASE IDLE taking an error writes LASTERR alone. -/
theorem initRefusesOperands : Obligations.InitRefusesOperands := by
  intro s a b f m hidle hbad
  rw [execInit_illegal hbad, raise_idle _ s hidle]
  rfl

/-- INIT whose close of the old handle, if one is open, answered goes on with `configure`; STATE is as it was where no
handle was open. -/
theorem openTransport_closed {s : State} (a : Byte) (b : Word) (f : Byte) (m : Half)
    (hok : answersOk s (closeCalls s)) :
    openTransport a b f m s = configureLink a b f m
      (setOpState (if s.handle = none then s.opState else .uninit) (atConfigure s)) := by
  have hclose : closeOpenHandle s =
      (true, setOpState (if s.handle = none then s.opState else .uninit) (atConfigure s)) := by
    cases hh : s.handle with
    | none =>
      rw [closeOpenHandle_none hh]
      refine congrArg (Prod.mk true) ?_
      apply State.ext <;> simp [closedBuffer, closeEvents, closeCalls, hh]
    | some x =>
      have h0 := hok 0 (by simp [closeCalls, hh])
      rw [closeOpenHandle_some hh (by simp [h0]), closeCall_done x (by simp [h0])]
      refine congrArg (Prod.mk true) ?_
      apply State.ext <;> simp [closedBuffer, closeEvents, closeCalls, hh]
  rw [openTransport, hclose]

theorem configureLink_fail (a : Byte) {b : Word} (f : Byte) (m : Half) {s : State}
    (hn : (drawAt s 0).outcome ≠ .never) (hf : (drawAt s 0).outcome = .fail ∨ b ∉ s.params.baudOk) :
    configureLink a b f m s = raise .transportError (configured b (exclusiveFlag f) .fail s) := by
  rw [configureLink, configureCall_fail _ _ hn hf]

theorem adoptHandle_ok (h : Handle) (a : Byte) (b : Word) (f : Byte) (m : Half) {s : State}
    (ho : (drawAt s 0).outcome = .ok) :
    adoptHandle h a b f m s =
      respond [] (setOpState .ready (setConfig a b f m (setHandle (some h) (signalCall false s).2))) := by
  rw [adoptHandle, signalCall_ok false ho]

theorem adoptHandle_fail (h : Handle) (a : Byte) (b : Word) (f : Byte) (m : Half) {s : State}
    (hf : (drawAt s 0).outcome = .fail) (hn : (drawAt s 1).outcome ≠ .never) :
    adoptHandle h a b f m s = raise .transportError (closeCall h (signalCall false s).2).2 := by
  simp [adoptHandle, signalCall_fail false hf, closeCall_done, hn]

/-- Settles O19: every call answered ok, so INIT closes, configures, lowers TE and writes the configuration. -/
theorem initOpensAndConfigures : Obligations.InitOpensAndConfigures := by
  intro s a b f m ha ha' hb0 hflags hm hidle hb hok
  have h0 := hok (closeCalls s) (by omega)
  have h1 := hok (closeCalls s + 1) (by omega)
  refine ⟨_, drop_closedBuffer_suffix s (drawAt s (closeCalls s)).shifted, ?_⟩
  rw [execInit_legal ha ha' hb0 hflags hm, openTransport_closed a b f m fun n h => hok n (by omega),
    configureLink_ok a f m (by simpa using h0) (by simpa using hb), adoptHandle_ok _ a b f m (by simpa using h1),
    signalCall_ok false (by simpa using h1), respond_eq]
  refine congrArg _ ?_
  apply State.ext <;>
    simp [served, configured, exclusiveFlag_of_reserved hflags, hidle, Nat.add_assoc]

/-- Settles O21: the old handle is closed by then, and neither `configure` nor taking the error writes the
configuration or the TE bit. -/
theorem initConfigureFailure : Obligations.InitConfigureFailure := by
  intro s a b f m ha ha' hb0 hflags hm hidle hu hok hfails
  have hanswered : (drawAt s (closeCalls s)).outcome ≠ .never := by
    rcases hfails with h | ⟨h, -⟩ <;> simp [h]
  have hrefused : (drawAt s (closeCalls s)).outcome = .fail ∨ b ∉ s.params.baudOk := hfails.imp_right And.right
  refine ⟨_, drop_closedBuffer_suffix s (drawAt s (closeCalls s)).shifted, ?_⟩
  rw [execInit_legal ha ha' hb0 hflags hm, openTransport_atConfigure a b f m hu hok,
    configureLink_fail a f m (by simpa using hanswered) (by simpa using hrefused), raise_eq]
  refine congrArg _ ?_
  apply State.ext <;>
    simp [served, configured, exclusiveFlag_of_reserved hflags, statusCode, Nat.add_assoc]

/-- Settles O22: the failed `set_signal` draws TE, and the close of the new handle is the next call. -/
theorem initSignalFailure : Obligations.InitSignalFailure := by
  intro s a b f m ha ha' hb0 hflags hm hidle hu hb hok hf hn
  have h0 := hok (closeCalls s) (by omega)
  refine ⟨_, (List.drop_suffix (drawAt s (closeCalls s + 2)).shifted _).trans
    (drop_closedBuffer_suffix s (drawAt s (closeCalls s)).shifted), ?_⟩
  rw [execInit_legal ha ha' hb0 hflags hm, openTransport_atConfigure a b f m hu fun n h => hok n (by omega),
    configureLink_ok a f m (by simpa using h0) (by simpa using hb),
    adoptHandle_fail _ a b f m (by simpa using hf) (by simpa using hn), signalCall_fail false (by simpa using hf),
    closeCall_done _ (by simpa using hn), raise_eq]
  refine congrArg _ ?_
  apply State.ext <;>
    simp [served, configured, exclusiveFlag_of_reserved hflags, statusCode, Nat.add_assoc]

/-- Settles O24: INIT is refused, which keeps the frame, or ends hung, OK or with TRANSPORT_ERROR. -/
theorem initFrame : Obligations.InitFrame := by
  intro s t a b f m hfree he
  cases exec_did _ s t he with
  | answer e r _ _ hne ht =>
    rcases ht with ⟨rfl, -, -⟩ | ⟨-, rfl⟩
    · obtain ⟨k, -⟩ := raise_frame e s
      exact ⟨k.params, k.inputs, k.trace, ⟨_, rfl⟩, .inr rfl, .inl ⟨k.addr, k.baud, k.ctrl, k.settle⟩⟩
    · exact absurd rfl (hne (.inl rfl))
  | status h _ => cases h
  | host h _ => cases h
  | transmit h _ _ _ => cases h
  | init a' b' f' m' hi _ _ _ _ ht =>
    cases hi
    subst ht
    obtain ⟨hparams, hinputs, ⟨es, -, htrace, -⟩, hphase, hfin⟩ := openTransport_ends a b f m hfree
    refine ⟨hparams, hinputs, ⟨es, htrace⟩, ?_, hphase, ?_⟩
    · rcases hfin with ⟨-, hlog, -⟩ | ⟨-, hlog, -⟩ | ⟨-, -, hlog, -⟩
      · exact ⟨[], by rw [hlog, List.append_nil]⟩
      · exact ⟨_, hlog⟩
      · exact ⟨_, hlog⟩
    · rcases hfin with ⟨-, -, -, ha, hb, hc, hs, -⟩ | ⟨-, -, hl, ho, -, -, -, ha, hb, hc, hs⟩ |
        ⟨-, -, -, -, ha, hb, hc, hs, -⟩
      · exact .inl ⟨ha, hb, hc, hs⟩
      · exact .inr ⟨ha, hb, hc, hs, ho, hl⟩
      · exact .inl ⟨ha, hb, hc, hs⟩

/-! ### XMIT -/

/-- Settles O25: with ok answers XMIT in READY is one pulse. -/
theorem xmitMakesOnePulse : Obligations.XmitMakesOnePulse := by
  intro s f hready hok
  exact ⟨heldBuffer s f, heldBuffer_suffix s f, by rw [exec_xmit_ready f hready, transmit_all_ok s f hok]⟩

/-- A release attempt that returned leaves TE, its line and TRACE as R63 says. -/
theorem signalCall_release {s : State} (h : (drawAt s 0).outcome ≠ .never) :
    (signalCall false s).2 = setTe (releaseBit (drawAt s 0)) (releaseLine (drawAt s 0))
      (record (.signal false (releaseAnswer (drawAt s 0))) (consume s)) := by
  cases hd : (drawAt s 0).outcome with
  | ok => simp [signalCall_ok false hd, releaseBit, releaseLine, releaseAnswer, hd]
  | fail => simp [signalCall_fail false hd, releaseBit, releaseLine, releaseAnswer, hd]
  | never => exact absurd hd h

/-- Settles O27: after a failed raise or write the release attempt is the next call, a failed release is the last. -/
theorem xmitFailurePaths : Obligations.XmitFailurePaths := by
  intro s f hready
  rw [exec_xmit_ready f hready]
  refine ⟨?raise, ?write, ?release⟩
  case raise =>
    intro hf hn
    rw [transmit_raise_fail f hf, signalCall_fail true (by simpa using hf), failPath_answered (by simpa using hn),
      signalCall_release (by simpa using hn), raise_eq]
    refine congrArg _ ?_
    apply State.ext <;> simp [served, statusCode]
  case write =>
    intro hok hf hn
    refine ⟨_, _, rfl, partWritten_suffix s _ (drawAt s (leadCalls s + 1)).shifted, congrArg _ ?_⟩
    rw [transmit_atWrite s f hok, writeFrame_fail f (by simpa using hf), writeCall_fail f (by simpa using hf),
      failPath_answered (by simpa using hn), signalCall_release (by simpa using hn), raise_eq]
    apply State.ext <;> simp [served, statusCode, Nat.add_assoc]
  case release =>
    intro hok hf
    have h1 := hok (leadCalls s + 1) (by omega)
    have h2 := hok (leadCalls s + 2) (by omega)
    refine ⟨heldBuffer s f, heldBuffer_suffix s f, congrArg _ ?_⟩
    rw [transmit_atWrite s f fun n h => hok n (by omega), writeFrame_ok f (by simpa using h1),
      writeCall_ok f (by simpa using h1), holdTe_done (by simp [h2]), waitCall_done _ (by simp [h2]),
      releaseTe_fail (by simpa using hf), signalCall_fail false (by simpa using hf), failPath_released, raise_eq]
    apply State.ext <;> simp [served, heldBuffer, writtenBuffer, statusCode, Nat.add_assoc]

/-- A call that answers ok. -/
def okAnswer : Draw := { (default : Draw) with outcome := .ok }

/-- A call that fails, a write after `k` bytes. -/
def failAfter (k : Nat) : Draw := { (default : Draw) with outcome := .fail, taken := k }

/-- The answers on which a write fails after `k` bytes: ok up to the write, `lead` of them to lead waits, and ok to the
release after it. -/
def failingWriteDraws (lead k : Nat) : List Draw := List.replicate (lead + 1) okAnswer ++ [failAfter k, okAnswer]

theorem drawAt_of_listed {s : State} {n : Nat} {d : Draw} (h : s.draws[n]? = some d) : drawAt s n = d := by
  simp [drawAt, h]

/-- With those answers listed, XMIT in READY takes the failing write's path, with a release that answers ok. -/
theorem exec_xmit_failing_write {s : State} {f : List Byte} {k : Nat} (hready : s.opState = .ready)
    (hk : k ≤ f.length) (hdraws : s.draws = failingWriteDraws (leadCalls s) k) :
    ∃ t, exec (.xmit f) s = .next t ∧ t.opState = .failed ∧
      t.trace = s.trace ++ ([.signal true .ok] ++ leadEvents s ++ [.write f (.fail k), .signal false .ok]) := by
  have hok : answersOk s (leadCalls s + 1) := by
    intro n hn
    rw [drawAt_of_listed (d := okAnswer) (by simp [hdraws, failingWriteDraws, List.getElem?_append_left, hn])]
    rfl
  have hwrite : drawAt s (leadCalls s + 1) = failAfter k :=
    drawAt_of_listed (by simp [hdraws, failingWriteDraws])
  have hrelease : drawAt s (leadCalls s + 2) = okAnswer :=
    drawAt_of_listed (by simp [hdraws, failingWriteDraws])
  obtain ⟨-, hpath, -⟩ := xmitFailurePaths s f hready
  rw [hwrite, hrelease] at hpath
  obtain ⟨n, b, hn, -, he⟩ := hpath hok rfl nofun
  obtain rfl : n = k := hn.trans (Nat.min_eq_left hk)
  exact ⟨_, he, rfl, rfl⟩

/-- Settles O30: list the answers on which the write fails after `k` bytes. -/
theorem everyPrefixOfFailedWriteAdmitted : Obligations.EveryPrefixOfFailedWriteAdmitted := by
  intro s f k hready hk
  exact ⟨failingWriteDraws (leadCalls s) k,
    exec_xmit_failing_write (s := { s with draws := failingWriteDraws (leadCalls s) k }) hready hk rfl⟩

/-! ### SEND and the commands -/

theorem exec_send_too_long {s : State} (code subcode : Byte) {data : List Byte}
    (h : s.params.maxPayload < data.length + 2) :
    exec (.send code subcode data) s = .next (raise .encodingError s) := by
  simp [exec, execSend, sendRequest, sendPayload, exceedsPayload_of_lt h]

theorem exec_send_not_ready {s : State} (code subcode : Byte) {data : List Byte}
    (h : data.length + 2 ≤ s.params.maxPayload) (hstate : s.opState ≠ .ready) :
    exec (.send code subcode data) s = .next (raise .notReady s) := by
  simp [exec, execSend, sendRequest, sendPayload, exceedsPayload_of_le h, hstate]

/-- Settles O32, by the length of the data and then by STATE. -/
theorem sendChecksThenTransmits : Obligations.SendChecksThenTransmits := by
  intro s code subcode data hidle
  refine ⟨fun hlen => ?_, fun hlong => ?_, fun hlen hready => ?_, fun hlen hready => ?_⟩
  · rw [counted_eq_encodeSequence]
    exact decodeSequence_encodeSequence (.send code subcode) data hlen
  · rw [exec_send_too_long code subcode hlong, raise_idle _ s hidle]
    rfl
  · rw [exec_send_not_ready code subcode hlen hready, raise_idle _ s hidle]
    rfl
  · rw [exec_xmit_ready _ hready]
    exact congrArg _ (sendRequest_ready s code subcode data hready hlen)

/-- Settles O33: a refusal keeps the frame and STATE; the transmit-enable sequence keeps the frame and ends hung, OK or
in FAILED. -/
theorem transmitFrame : Obligations.TransmitFrame := by
  intro i s t hi hfree he
  have parts : (LinkFrame s t ∧ t.handle = s.handle) ∧ (∃ hs, t.hostLog = s.hostLog ++ hs) ∧
      (t.opState = s.opState ∨ t.opState = .failed) := by
    rcases exec_transmit_cases i s t hi he with ⟨-, rfl⟩ | rfl | ⟨rfl, -⟩ | ⟨-, f, rfl⟩
    · exact ⟨tellHost_frame _ s, ⟨_, rfl⟩, .inl rfl⟩
    · exact ⟨raise_frame _ s, ⟨_, rfl⟩, .inl rfl⟩
    · exact ⟨raise_frame _ s, ⟨_, rfl⟩, .inl rfl⟩
    · refine ⟨transmit_frame f s, ?_⟩
      obtain ⟨-, hfin⟩ := transmit_ends f hfree
      rcases hfin with ⟨-, hlog, -, ho⟩ | ⟨-, -, hlog, -, ho, -⟩ | ⟨-, -, hlog, -, ho⟩
      · exact ⟨⟨[], by rw [hlog, List.append_nil]⟩, .inl ho⟩
      · exact ⟨⟨_, hlog⟩, .inl ho⟩
      · exact ⟨⟨_, hlog⟩, .inr ho⟩
  obtain ⟨⟨k, hhandle⟩, hlog, hstate⟩ := parts
  exact ⟨k.params, k.addr, k.baud, k.ctrl, k.settle, hhandle, k.inputs, k.trace, hlog, hstate⟩

/-! ### STATUS, and a TFC that is busy for ever -/

theorem statreg_toNat (s : State) :
    (statreg s).toNat = (opStateCode s.opState).toNat + if s.te then 4 else 0 := by
  unfold statreg
  cases s.opState <;> cases s.te <;> rfl

theorem be32_bytes (n : Nat) : be32 n = [BitVec.ofNat 8 (n / 2 ^ 24), BitVec.ofNat 8 (n / 2 ^ 16 % 256),
    BitVec.ofNat 8 (n / 2 ^ 8 % 256), BitVec.ofNat 8 (n % 256)] := by
  simp only [ofNat_mod_256]
  rfl

/-- Settles O37: the bytes of R65, each read off its register; STATREG has TE's bit apart from STATE's two. -/
theorem statusReadsRegisters : Obligations.StatusReadsRegisters := by
  refine ⟨rfl, fun s => ⟨statreg s, ?_, ?_⟩⟩
  · rw [statreg_toNat]
    cases s.opState <;> rfl
  · have hexec : exec .status s = .next (emit (statusResponse s) s) := rfl
    rw [hexec, statusResponse, be32_bytes, be16_bytes]
    rfl

/-- Settles O53: an outstanding call leaves `step` no branch but a presented reset. -/
theorem hungTfcHoldsEveryRequest : Obligations.HungTfcHoldsEveryRequest := by
  intro s c hbusy hreset
  simp [step, hbusy, hreset]

end Sys2Proof.Machine

end

section
/-! SUPPORT. The command encoders (45_command_payloads.md R68 to R76): what data each gives for legal operands, which
operands it accepts at all, and the bytes of a text (R69). -/

namespace Sys2Proof.Machine

open Sys2Proof.Safety

/-! ### A command call by its encoder's result -/

/-- A command call whose encoder gives data is the SEND of the data, and in READY, within the limit and with ok
answers that SEND is one pulse of its telegram (R45, R49). -/
theorem command_sends {i : Instr} {s : State} {code : Byte} {data : Option (List Byte)} {d : List Byte}
    (hexec : exec i s = .next (runCommand code data s)) (hdata : data = some d) :
    exec i s = exec (.send code 0x00#8 d) s ∧
      (s.opState = .ready → d.length + 2 ≤ s.params.maxPayload → answersOk s (leadCalls s + 4) →
        ∃ b, b <:+ s.outBuf ++ telegramOf s.addr ([code, 0x00#8] ++ d) ∧
          exec i s = .next (pulseDone s (telegramOf s.addr ([code, 0x00#8] ++ d)) b)) := by
  subst hdata
  have hsend : exec i s = exec (.send code 0x00#8 d) s := hexec
  rw [hsend]
  exact ⟨rfl, sendWritesTelegram s code 0x00#8 d⟩

/-- A command call whose encoder gives no data is refused on the host side (R68). -/
theorem command_refused {i : Instr} {s : State} {code : Byte} {data : Option (List Byte)}
    (hexec : exec i s = .next (runCommand code data s)) (hdata : ∀ d, data ≠ some d) :
    exec i s = .next (refusedOnHost s) := by
  rw [hexec, Option.eq_none_iff_forall_ne_some.mpr hdata, runCommand_refused]
  rfl

/-! ### Single operands -/

theorem byteOperand_eq_some_iff {v : Int} {b : Byte} :
    byteOperand v = some b ↔ 0 ≤ v ∧ v ≤ 255 ∧ (b.toNat : Int) = v := by
  by_cases h : 0 ≤ v ∧ v ≤ 255
  · obtain ⟨n, rfl⟩ := Int.eq_ofNat_of_zero_le h.1
    rw [byteOperand_ofNat (by omega), Option.some_inj, ← BitVec.toNat_inj, BitVec.toNat_ofNat]
    omega
  · rw [byteOperand_out_of_range h, ← and_assoc]
    exact iff_of_false nofun fun hv => h hv.1

theorem inByte_of_byteOperand {v : Int} {b : Byte} (h : byteOperand v = some b) : inByte v := by
  obtain ⟨h0, h255, -⟩ := byteOperand_eq_some_iff.mp h
  exact ⟨h0, h255⟩

theorem inHalf_of_halfOperand {v : Int} {b : List Byte} (h : halfOperand v = some b) : inHalf v := by
  by_contra hv
  rw [halfOperand_out_of_range hv] at h
  cases h

theorem inClock_of_clockDigits {p : Params} {v : Int} {b : List Byte} (h : clockDigits p v = some b) :
    inClock v := by
  by_contra hv
  rw [clockDigits_out_of_range hv] at h
  cases h

/-! ### SIMPLE_TEXT -/

theorem simpleTextData_ofNat {p : Params} {page row col : Nat} {t : Text} {e : List Byte} (align : Align)
    (hpage : page ≤ 255) (hrow : row ≤ 255) (hcol : col ≤ 255) (ht : encodedText p t = some e) :
    simpleTextData p page row col t align =
      some ([alignByte p align, BitVec.ofNat 8 page, BitVec.ofNat 8 row, BitVec.ofNat 8 col] ++ e) := by
  simp only [simpleTextData, byteOperand_ofNat hpage, byteOperand_ofNat hrow, byteOperand_ofNat hcol, ht]

theorem simpleTextData_operands {p : Params} {page row col : Int} {t : Text} {align : Align} {d : List Byte}
    (h : simpleTextData p page row col t align = some d) :
    (inByte page ∧ inByte row ∧ inByte col) ∧ encodedText p t ≠ none := by
  unfold simpleTextData at h
  split at h
  · rename_i hpage hrow hcol ht
    exact ⟨⟨inByte_of_byteOperand hpage, inByte_of_byteOperand hrow, inByte_of_byteOperand hcol⟩, by simp [ht]⟩
  · cases h

/-- Settles O39: the encoder gives data exactly when the three bytes are in range and the text has bytes. -/
theorem simpleTextSendsItsPayload : Obligations.SimpleTextSendsItsPayload := by
  intro s t align
  constructor
  · intro page row col e hpage hrow hcol ht
    exact command_sends rfl (simpleTextData_ofNat align hpage hrow hcol ht)
  · intro page row col hbad
    refine command_refused rfl fun d hd => ?_
    obtain ⟨hrange, htext⟩ := simpleTextData_operands hd
    exact hbad.elim (absurd hrange) htext

/-! ### TEXT -/

theorem textData_ofNat {p : Params} {page row colStart colEnd : Nat} {t : Text} {e : List Byte} (align : Align)
    (hpage : page ≤ 255) (hrow : row ≤ 255) (hstart : colStart ≤ 65535) (hend : colEnd ≤ 65535)
    (ht : encodedText p t = some e) :
    textData p page row colStart colEnd t align =
      some ([alignByte p align, BitVec.ofNat 8 page, BitVec.ofNat 8 row,
        BitVec.ofNat 8 (colStart / 256), BitVec.ofNat 8 (colStart % 256),
        BitVec.ofNat 8 (colEnd / 256), BitVec.ofNat 8 (colEnd % 256)] ++ e) := by
  simp only [textData, byteOperand_ofNat hpage, byteOperand_ofNat hrow, halfOperand_ofNat hstart,
    halfOperand_ofNat hend, ht, List.cons_append, List.nil_append]

theorem textData_operands {p : Params} {page row colStart colEnd : Int} {t : Text} {align : Align} {d : List Byte}
    (h : textData p page row colStart colEnd t align = some d) :
    (inByte page ∧ inByte row ∧ inHalf colStart ∧ inHalf colEnd) ∧ encodedText p t ≠ none := by
  unfold textData at h
  split at h
  · rename_i hpage hrow hstart hend ht
    exact ⟨⟨inByte_of_byteOperand hpage, inByte_of_byteOperand hrow, inHalf_of_halfOperand hstart,
      inHalf_of_halfOperand hend⟩, by simp [ht]⟩
  · cases h

/-- Settles O40: the encoder compares each column bound with its own range only, never with the other. -/
theorem textSendsItsPayload : Obligations.TextSendsItsPayload := by
  intro s t align
  constructor
  · intro page row colStart colEnd e hpage hrow hstart hend ht
    exact command_sends rfl (textData_ofNat align hpage hrow hstart hend ht)
  · intro page row colStart colEnd hbad
    refine command_refused rfl fun d hd => ?_
    obtain ⟨hrange, htext⟩ := textData_operands hd
    exact hbad.elim (absurd hrange) htext

/-! ### SET_PAGES and SET_PAGE -/

theorem pairBytes_ofNat {pairs : List (Nat × Nat)} (h : ∀ x ∈ pairs, x.1 ≤ 255 ∧ x.2 ≤ 255) :
    pairBytes (pairs.map fun x => ((x.1 : Int), (x.2 : Int))) =
      some (pairs.flatMap fun x => [BitVec.ofNat 8 x.1, BitVec.ofNat 8 x.2]) := by
  induction pairs with
  | nil => rfl
  | cons x t ih =>
    obtain ⟨⟨hpage, hduration⟩, ht⟩ := List.forall_mem_cons.mp h
    simp only [List.map_cons, pairBytes, byteOperand_ofNat hpage, byteOperand_ofNat hduration, ih ht]
    rfl

theorem pairBytes_operands {pairs : List (Int × Int)} {b : List Byte} (h : pairBytes pairs = some b) :
    ∀ x ∈ pairs, inByte x.1 ∧ inByte x.2 := by
  induction pairs generalizing b with
  | nil => exact List.forall_mem_nil _
  | cons x t ih =>
    unfold pairBytes at h
    split at h
    · rename_i hpage hduration ht
      exact List.forall_mem_cons.mpr
        ⟨⟨inByte_of_byteOperand hpage, inByte_of_byteOperand hduration⟩, ih ht⟩
    · cases h

/-- Settles O41: the encoder gives data exactly when every pair has its two bytes. -/
theorem setPagesSendsItsPairs : Obligations.SetPagesSendsItsPairs := by
  intro s
  constructor
  · intro pairs hrange
    exact command_sends rfl (congrArg (Option.map (0x00#8 :: ·)) (pairBytes_ofNat hrange))
  · intro pairs hbad
    refine command_refused rfl fun d hd => ?_
    obtain ⟨b, hb, -⟩ := Option.map_eq_some_iff.mp hd
    exact hbad (pairBytes_operands hb)

theorem exec_setPage (page : Int) (s : State) : exec (.setPage page) s = exec (.setPages [(page, 255)]) s := rfl

/-- Settles O42: SET_PAGE is SET_PAGES of one pair, of which O41 speaks. -/
theorem setPageIsOnePairAtFullDuration : Obligations.SetPageIsOnePairAtFullDuration := by
  intro s
  obtain ⟨hsends, hrefuses⟩ := setPagesSendsItsPairs s
  refine ⟨fun page => exec_setPage page s, fun page hpage => ?_, fun page hbad => ?_⟩
  · exact hsends [(page, 255)] (List.forall_mem_singleton.mpr ⟨hpage, le_rfl⟩)
  · rw [exec_setPage]
    exact hrefuses [(page, 255)] fun h => hbad (List.forall_mem_singleton.mp h).1

/-! ### SET_CLOCK -/

/-- The two digit bytes of a clock field in the order of the parameter (R75). -/
def digitBytes (order : DigitOrder) (v : Nat) : List Byte :=
  match order with
  | .onesFirst => [BitVec.ofNat 8 (v % 10), BitVec.ofNat 8 (v / 10)]
  | .tensFirst => [BitVec.ofNat 8 (v / 10), BitVec.ofNat 8 (v % 10)]

theorem clockDigits_ofNat (p : Params) {v : Nat} (h : v ≤ 99) :
    clockDigits p v = some (digitBytes p.clockDigitOrder v) := by
  unfold clockDigits
  rw [if_pos (by omega)]
  cases p.clockDigitOrder <;> rfl

theorem setClockData_ofNat (p : Params) {year month day hour minute second : Nat} (hy : year ≤ 99)
    (hmo : month ≤ 99) (hd : day ≤ 99) (hh : hour ≤ 99) (hmi : minute ≤ 99) (hs : second ≤ 99) :
    setClockData p year month day hour minute second =
      some ([second, minute, hour, day, month, year].flatMap (digitBytes p.clockDigitOrder) ++ [0x00#8]) := by
  simp [setClockData, clockDigits_ofNat p hy, clockDigits_ofNat p hmo, clockDigits_ofNat p hd,
    clockDigits_ofNat p hh, clockDigits_ofNat p hmi, clockDigits_ofNat p hs]

theorem setClockData_operands {p : Params} {year month day hour minute second : Int} {d : List Byte}
    (h : setClockData p year month day hour minute second = some d) :
    inClock year ∧ inClock month ∧ inClock day ∧ inClock hour ∧ inClock minute ∧ inClock second := by
  unfold setClockData at h
  split at h
  · rename_i hs hmi hh hd hmo hy
    exact ⟨inClock_of_clockDigits hy, inClock_of_clockDigits hmo, inClock_of_clockDigits hd,
      inClock_of_clockDigits hh, inClock_of_clockDigits hmi, inClock_of_clockDigits hs⟩
  · cases h

/-- Settles O43: the data are always thirteen bytes, so 15 is the length the limit must admit. -/
theorem setClockSendsItsDigits : Obligations.SetClockSendsItsDigits := by
  intro s
  constructor
  · intro year month day hour minute second hy hmo hd hh hmi hs
    have hdata := setClockData_ofNat s.params hy hmo hd hh hmi hs
    obtain ⟨hsend, hpulse⟩ := command_sends (i := .setClock year month day hour minute second) rfl hdata
    rw [setClockData_length hdata] at hpulse
    exact ⟨hsend, hpulse⟩
  · intro year month day hour minute second hbad
    exact command_refused rfl fun d hd => hbad (setClockData_operands hd)

/-! ### SET_CLOCK_DISPLAY -/

theorem setClockDisplayData_ofNat {p : Params} {dateFormat timeFormat : Name} {df tf : Byte}
    {dateRow dateColStart dateColEnd timeRow timeColStart timeColEnd : Nat}
    (hdf : p.dateFmt.lookup dateFormat = some df) (htf : p.timeFmt.lookup timeFormat = some tf)
    (hdr : dateRow ≤ 255) (htr : timeRow ≤ 255) (hdcs : dateColStart ≤ 65535) (hdce : dateColEnd ≤ 65535)
    (htcs : timeColStart ≤ 65535) (htce : timeColEnd ≤ 65535) :
    setClockDisplayData p dateFormat dateRow dateColStart dateColEnd timeFormat timeRow timeColStart timeColEnd =
      some [df, BitVec.ofNat 8 dateRow,
        BitVec.ofNat 8 (dateColStart / 256), BitVec.ofNat 8 (dateColStart % 256),
        BitVec.ofNat 8 (dateColEnd / 256), BitVec.ofNat 8 (dateColEnd % 256),
        tf, BitVec.ofNat 8 timeRow,
        BitVec.ofNat 8 (timeColStart / 256), BitVec.ofNat 8 (timeColStart % 256),
        BitVec.ofNat 8 (timeColEnd / 256), BitVec.ofNat 8 (timeColEnd % 256)] := by
  simp only [setClockDisplayData, hdf, htf, byteOperand_ofNat hdr, byteOperand_ofNat htr, halfOperand_ofNat hdcs,
    halfOperand_ofNat hdce, halfOperand_ofNat htcs, halfOperand_ofNat htce, List.cons_append, List.nil_append]

theorem setClockDisplayData_operands {p : Params} {df : Name} {dr dcs dce : Int} {tf : Name} {tr tcs tce : Int}
    {d : List Byte} (h : setClockDisplayData p df dr dcs dce tf tr tcs tce = some d) :
    inByte dr ∧ inHalf dcs ∧ inHalf dce ∧ inByte tr ∧ inHalf tcs ∧ inHalf tce := by
  unfold setClockDisplayData at h
  split at h
  · rename_i _ hdr hdcs hdce _ htr htcs htce
    exact ⟨inByte_of_byteOperand hdr, inHalf_of_halfOperand hdcs, inHalf_of_halfOperand hdce,
      inByte_of_byteOperand htr, inHalf_of_halfOperand htcs, inHalf_of_halfOperand htce⟩
  · cases h

/-- Settles O44: data come out only when the rows and bounds are in range, whatever the formats. -/
theorem setClockDisplaySendsItsPlacement : Obligations.SetClockDisplaySendsItsPlacement := by
  intro s dateFormat timeFormat
  constructor
  · intro df tf dateRow dateColStart dateColEnd timeRow timeColStart timeColEnd hdf htf hdr htr hdcs hdce htcs htce
    exact command_sends rfl (setClockDisplayData_ofNat hdf htf hdr htr hdcs hdce htcs htce)
  · intro dateRow dateColStart dateColEnd timeRow timeColStart timeColEnd hbad
    exact command_refused rfl fun d hd => hbad (setClockDisplayData_operands hd)

/-! ### The bytes of a text -/

theorem codepageBytes_cons_eq_some_iff {p : Params} {c : Char} {t : List Char} {bs : List Byte} :
    codepageBytes p (c :: t) = some bs ↔
      ∃ b r, p.codepage.lookup c = some b ∧ codepageBytes p t = some r ∧ bs = b :: r := by
  constructor
  · intro h
    unfold codepageBytes at h
    split at h
    · rename_i b r hc ht
      exact ⟨b, r, hc, ht, (Option.some.inj h).symm⟩
    · cases h
  · rintro ⟨b, r, hc, ht, rfl⟩
    simp only [codepageBytes, hc, ht]

theorem runBytes_cons_eq_some_iff {p : Params} {r : StyledRun} {t : List StyledRun} {bs : List Byte} :
    runBytes p (r :: t) = some bs ↔
      ∃ a e rest, attrByte p r.attr = some a ∧ codepageBytes p r.text = some e ∧ runBytes p t = some rest ∧
        bs = 0x00#8 :: a :: (e ++ rest) := by
  constructor
  · intro h
    unfold runBytes at h
    split at h
    · rename_i a e rest ha he ht
      exact ⟨a, e, rest, ha, he, ht, (Option.some.inj h).symm⟩
    · cases h
  · rintro ⟨a, e, rest, ha, he, ht, rfl⟩
    simp only [runBytes, ha, he, ht]

/-- A plain text's bytes are its characters' codepage bytes in order (R69). -/
theorem codepageBytes_eq_some_iff {p : Params} {t : List Char} {bs : List Byte} :
    codepageBytes p t = some bs ↔ t.map (fun c => p.codepage.lookup c) = bs.map some := by
  induction t generalizing bs with
  | nil => cases bs <;> simp [codepageBytes]
  | cons c t ih =>
    rw [codepageBytes_cons_eq_some_iff]
    cases bs with
    | nil => simp
    | cons b r => simp [← ih]

/-- `part` is what the styled run `r` is serialized as: 00, its flag byte and its text's bytes (R69). -/
def RunPart (p : Params) (r : StyledRun) (part : List Byte) : Prop :=
  ∃ a e, part = 0x00#8 :: a :: e ∧ encodedText p (.plain r.text) = some e ∧ attrByte p r.attr = some a

/-- Styled runs' bytes are the concatenation of the runs' parts in order (R69). -/
theorem runBytes_eq_some_iff {p : Params} {runs : List StyledRun} {bs : List Byte} :
    runBytes p runs = some bs ↔ ∃ parts, bs = parts.flatten ∧ List.Forall₂ (RunPart p) runs parts := by
  induction runs generalizing bs with
  | nil => simp [runBytes, eq_comm]
  | cons r t ih =>
    rw [runBytes_cons_eq_some_iff]
    constructor
    · rintro ⟨a, e, rest, ha, he, ht, rfl⟩
      obtain ⟨parts, rfl, hparts⟩ := ih.mp ht
      exact ⟨(0x00#8 :: a :: e) :: parts, rfl, .cons ⟨a, e, rfl, he, ha⟩ hparts⟩
    · rintro ⟨_, rfl, hall⟩
      obtain ⟨_, parts, ⟨a, e, rfl, he, ha⟩, hparts, rfl⟩ := List.forall₂_cons_left_iff.mp hall
      exact ⟨a, e, parts.flatten, ha, he, ih.mpr ⟨parts, rfl, hparts⟩, rfl⟩

/-- Settles O46, by the two kinds of text; a run is marked by a byte value or a named flag. -/
theorem encodedTextBytes : Obligations.EncodedTextBytes := by
  intro p bs
  refine ⟨fun t => codepageBytes_eq_some_iff, fun runs => ?_⟩
  refine runBytes_eq_some_iff.trans (exists_congr fun parts => and_congr_right fun _ => ?_)
  refine iff_of_eq (congrArg (List.Forall₂ · runs parts) (funext₂ fun r part => propext ?_))
  refine exists₂_congr fun a e => and_congr_right fun _ => and_congr_right fun _ => ?_
  cases r.attr with
  | value n => exact byteOperand_eq_some_iff
  | _ => exact Option.some_inj.trans eq_comm

end Sys2Proof.Machine

end

section
/-! SUPPORT. The exceptions (60_exceptions.md R82, R87, R88): the refusal outside READY, and which responses an
instruction that has touched more than LASTERR can have sent. -/

namespace Sys2Proof.Machine

open Sys2Proof.Safety

/-! ### XMIT and SEND outside READY -/

theorem exec_xmit_not_ready {s : State} (f : List Byte) (hstate : s.opState ≠ .ready) :
    exec (.xmit f) s = .next (raise .notReady s) := by
  simp [exec, execXmit, hstate]

/-- Settles O26: both are refused, and in PHASE IDLE taking an error writes LASTERR alone. -/
theorem transmitNeedsReady : Obligations.TransmitNeedsReady := by
  intro s hstate hidle
  have hanswer : raise .notReady s = answered s .notReady [0x04#8] := raise_idle _ s hidle
  exact ⟨fun f => hanswer ▸ exec_xmit_not_ready f hstate,
    fun code subcode _ hlen => hanswer ▸ exec_send_not_ready code subcode hlen hstate⟩

/-! ### The responses of the link -/

/-- What the host sees of a request that used the link: nothing, if a call never returned, or else OK or
TRANSPORT_ERROR. -/
def LinkResponse (s t : State) : Prop :=
  t.hostLog = s.hostLog ∨ t.hostLog = s.hostLog ++ [.response [statusCode .ok]] ∨
    t.hostLog = s.hostLog ++ [.response [statusCode .transportError]]

theorem transmit_linkResponse (f : List Byte) {s : State} (hw : s.waitingOn = none) :
    LinkResponse s (transmit f s) := by
  obtain ⟨-, hfin⟩ := transmit_ends f hw
  rcases hfin with ⟨-, hlog, -⟩ | ⟨-, -, hlog, -⟩ | ⟨-, -, hlog, -⟩
  · exact .inl hlog
  · exact .inr (.inl hlog)
  · exact .inr (.inr hlog)

theorem openTransport_linkResponse (a : Byte) (b : Word) (f : Byte) (m : Half) {s : State}
    (hw : s.waitingOn = none) : LinkResponse s (openTransport a b f m s) := by
  obtain ⟨-, -, -, -, hfin⟩ := openTransport_ends a b f m hw
  rcases hfin with ⟨-, hlog, -⟩ | ⟨-, hlog, -⟩ | ⟨-, -, hlog, -⟩
  · exact .inl hlog
  · exact .inr (.inl hlog)
  · exact .inr (.inr hlog)

/-! ### The checked errors -/

/-- A response tells its status by its first byte (R42). -/
theorem status_of_response {log : List HostEvent} {x e : Status} {r : List Byte}
    (h : log ++ [.response (statusCode x :: r)] = log ++ [.response [statusCode e]]) : x = e := by
  have hresponse : statusCode x :: r = [statusCode e] := by simpa using h
  exact statusCode_injective (List.cons_eq_cons.mp hresponse).1

theorem linkResponse_status {s t : State} {e : Status} (h : LinkResponse s t)
    (hlog : t.hostLog = s.hostLog ++ [.response [statusCode e]]) : e = .ok ∨ e = .transportError := by
  rcases h with h | h | h
  · simp [h] at hlog
  · exact .inl (status_of_response (h.symm.trans hlog)).symm
  · exact .inr (status_of_response (h.symm.trans hlog)).symm

/-- Settles O49: of the five things an instruction can do, the link's responses, STATUS's and a result's are OK or
TRANSPORT_ERROR and a refusal on the host side is no response, so the instruction took an error, which in PHASE IDLE
writes LASTERR alone. -/
theorem checkedErrorsArePrecise : Obligations.CheckedErrorsArePrecise := by
  intro i s t e hidle hfree he hchecked hlog
  have hnotLink : ¬(e = .ok ∨ e = .transportError) := by
    rintro (rfl | rfl) <;> simp at hchecked
  cases exec_did i s t he with
  | answer x r _ _ _ ht =>
    rcases ht with ⟨rfl, -, -⟩ | ⟨rfl, -⟩
    · obtain rfl : x = e := status_of_response hlog
      exact raise_idle x s hidle
    · exact absurd (.inl (status_of_response hlog).symm) hnotLink
  | status _ ht =>
    subst ht
    exact absurd (.inl (status_of_response hlog).symm) hnotLink
  | host _ ht =>
    subst ht
    exact absurd (List.append_cancel_left hlog) (by simp)
  | transmit _ _ f ht =>
    subst ht
    exact absurd (linkResponse_status (transmit_linkResponse f hfree) hlog) hnotLink
  | init a b f m _ _ _ _ _ ht =>
    subst ht
    exact absurd (linkResponse_status (openTransport_linkResponse a b f m hfree) hlog) hnotLink

end Sys2Proof.Machine

end

section
/-! SUPPORT. Reset (70_reset_and_hazards.md R96, R97), the settle hazard and its tail (R100), and the end of a run
(R105). -/

namespace Sys2Proof.Machine

open Sys2Proof.Safety

/-! ### The settle hazard -/

/-- With nothing in the output buffer before it, a pulse leaves nothing there if its write waits for the bytes or its
settle wait is long enough for the whole frame. -/
theorem heldBuffer_eq_nil {s : State} {f : List Byte} (hempty : s.outBuf = [])
    (h : s.params.writeCompletion = .onShifted ∨ f.length * 11000 ≤ s.settle.toNat * s.baud.toNat) :
    heldBuffer s f = [] := by
  rcases h with hshifted | hfits
  · simp [heldBuffer, writtenBuffer, bufferAfterWrite, hshifted]
  · have hchars : f.length ≤ charactersIn s.settle.toNat s.baud := (Nat.le_div_iff_mul_le (by decide)).mpr hfits
    have hwritten : (writtenBuffer s f).length ≤ f.length := by
      simpa [hempty] using (writtenBuffer_suffix s f).length_le
    exact List.drop_eq_nil_of_le (hwritten.trans (hchars.trans (Nat.le_max_right _ _)))

/-- Settles O34: what TE drops on is empty. -/
theorem wholeFrameLeavesBeforeRelease : Obligations.WholeFrameLeavesBeforeRelease := by
  intro s f hready hok hempty h
  rw [exec_xmit_ready f hready, transmit_all_ok s f hok, heldBuffer_eq_nil hempty h]

/-- A call that answers ok, `n` bytes having left the output buffer by then. -/
def okShifting (n : Nat) : Draw := { okAnswer with shifted := n }

/-- The answers on which a pulse has only `old` bytes out by the end of its write, and after it only what the settle
wait forces out; `lead` of the answers are to lead waits. -/
def truncatingDraws (lead old : Nat) : List Draw :=
  List.replicate (lead + 1) okAnswer ++ [okShifting old, okAnswer, okAnswer]

/-- What the write of a pulse finds in the output buffer when its lead wait lets out only what it must. -/
def oldBytes (s : State) : List Byte := s.outBuf.drop (charactersIn s.params.teLeadMs s.baud)

theorem leadBuffer_eq_oldBytes {s : State} (h : ∀ n, n < leadCalls s + 1 → drawAt s n = okAnswer) :
    leadBuffer s = oldBytes s := by
  unfold leadBuffer oldBytes
  by_cases hl : s.params.teLeadMs = 0
  · simp [hl, charactersIn]
  · have hlead : drawAt s 1 = okAnswer := h 1 (by simp [leadCalls, hl])
    rw [if_neg hl, hlead, show okAnswer.shifted = 0 from rfl, Nat.zero_max]

/-- Under ON_ACCEPT, when the write lets out exactly the older bytes and the settle wait only what it must, TE drops on
the frame without the characters that fit in SETTLE. -/
theorem heldBuffer_of_late_frame {s : State} (f : List Byte) (haccept : s.params.writeCompletion = .onAccept)
    (hwrite : (drawAt s (leadCalls s + 1)).shifted = (leadBuffer s).length)
    (hsettle : (drawAt s (leadCalls s + 2)).shifted = 0) :
    heldBuffer s f = f.drop (charactersIn s.settle.toNat s.baud) := by
  simp [heldBuffer, writtenBuffer, bufferAfterWrite, haccept, hwrite, hsettle]

/-- With those answers listed, XMIT in READY answers OK on a truncated frame. -/
theorem exec_xmit_truncated {s : State} (f : List Byte) (hready : s.opState = .ready)
    (haccept : s.params.writeCompletion = .onAccept)
    (hdraws : s.draws = truncatingDraws (leadCalls s) (oldBytes s).length) :
    exec (.xmit f) s = .next (pulseDone s f (f.drop (charactersIn s.settle.toNat s.baud))) := by
  have hbefore : ∀ n, n < leadCalls s + 1 → drawAt s n = okAnswer := fun n hn =>
    drawAt_of_listed (by simp [hdraws, truncatingDraws, List.getElem?_append_left, hn])
  have hwrite : drawAt s (leadCalls s + 1) = okShifting (oldBytes s).length :=
    drawAt_of_listed (by simp [hdraws, truncatingDraws])
  have hsettle : drawAt s (leadCalls s + 2) = okAnswer := drawAt_of_listed (by simp [hdraws, truncatingDraws])
  have hrelease : drawAt s (leadCalls s + 3) = okAnswer := drawAt_of_listed (by simp [hdraws, truncatingDraws])
  have hok : answersOk s (leadCalls s + 4) := by
    intro n hn
    obtain h | rfl | rfl | rfl : n < leadCalls s + 1 ∨ n = leadCalls s + 1 ∨ n = leadCalls s + 2 ∨
        n = leadCalls s + 3 := by omega
    · rw [hbefore n h]; rfl
    · rw [hwrite]; rfl
    · rw [hsettle]; rfl
    · rw [hrelease]; rfl
  rw [exec_xmit_ready f hready, transmit_all_ok s f hok, heldBuffer_of_late_frame f haccept
    (by rw [hwrite, leadBuffer_eq_oldBytes hbefore]; rfl) (by rw [hsettle]; rfl)]

/-- Settles O35: let out no byte of the frame but those that the settle wait forces out. -/
theorem truncationIsAdmitted : Obligations.TruncationIsAdmitted := by
  intro s f hready haccept hlong
  have hchars : charactersIn s.settle.toNat s.baud < f.length := (Nat.div_lt_iff_lt_mul (by decide)).mpr hlong
  let ds := truncatingDraws (leadCalls s) (oldBytes s).length
  refine ⟨ds, f.drop (charactersIn s.settle.toNat s.baud), ?_, List.drop_suffix _ _,
    exec_xmit_truncated (s := { s with draws := ds }) f hready haccept rfl⟩
  simpa [List.drop_eq_nil_iff] using hchars

/-! ### The tail -/

theorem step_idle {s : State} (hfree : s.waitingOn = none) (hin : s.inputs = []) :
    step s = .next (passTime s) := by
  simp [step, hfree, hin]

/-- Settles O36: a pulse ends with TE low, the gap after it takes the listed number of bytes, and neither an idle step
nor STATUS drives TE. -/
theorem tailGoesOutWithBusReleased : Obligations.TailGoesOutWithBusReleased := by
  intro s f b k hfree t
  refine ⟨rfl, rfl, rfl, fun hin => ?idle, fun rest hin => ⟨statusResponse (whenServed t rest), ?status⟩⟩
  case idle => exact step_idle (s := t) hfree hin
  case status => exact step_request (s := t) hfree hin

/-! ### Reset -/

theorem resetTfc_eq (s : State) : resetTfc s = { State.reset with
    params := s.params
    teLine := (drawAt s 0).line
    inputs := s.inputs
    hostLog := s.hostLog
    draws := s.draws.drop 1
    drawn := s.drawn + 1
    gaps := s.gaps
    gapsTaken := s.gapsTaken } := by
  rw [List.drop_one]
  rfl

/-- Settles O54: the first reset presented is taken, and the host sees the request lost. -/
theorem resetFreesHungTfc : Obligations.ResetFreesHungTfc := by
  intro s c hbusy hreset
  have hstep : step s = .next (resetHung s) := by simp [step, hbusy, hreset]
  rw [hstep, resetHung, resetDuring, resetTfc_eq]
  rfl

/-- Settles O55: a free TFC takes the reset itself. -/
theorem resetBetweenRequests : Obligations.ResetBetweenRequests := by
  intro s rest hfree hin
  have hstep : step s = .next (resetTfc (setInputs rest s)) := by simp [step, hfree, hin]
  rw [hstep, resetTfc_eq]
  rfl

/-- Settles O56, by what is cut and, of a command call, by whether its encoder gave a request. -/
theorem resetEndsRequestInProgress : Obligations.ResetEndsRequestInProgress := by
  intro s rest hfree resetSeen
  have seen (e : HostEvent) : resetTfc (tellHost e (setInputs rest s)) = resetSeen e := resetTfc_eq _
  refine ⟨fun q hin => ?_, fun c hin => ?_⟩
  · have hstep : step s = .next (resetDuring (setInputs rest s)) := by simp [step, hfree, hin]
    rw [hstep, resetDuring, seen]
  · have hstep : step s = .next (resetDuringCommand c (setInputs rest s)) := by simp [step, hfree, hin]
    refine ⟨fun j hj => ?_, fun hnone => ?_⟩
    · rw [hstep, resetDuringCommand, setInputs_params, hj, ← seen]
      rfl
    · rw [hstep, resetDuringCommand, setInputs_params, hnone, ← seen]
      rfl

/-- Settles O58: each is read off the reset state. -/
theorem resetValuesAsStated : Obligations.ResetValuesAsStated :=
  ⟨rfl, rfl, rfl, rfl, rfl, rfl, rfl, rfl, rfl, rfl, rfl, rfl⟩

/-- Settles O59: at reset STATE is UNINIT with no handle, ADDR is 0 as it may be there, and TRACE is empty. -/
theorem resetMeetsTheInvariant : Obligations.ResetMeetsTheInvariant where
  idlePhase _ := rfl
  handleOpen := ⟨fun _ => rfl, fun _ => rfl⟩
  addrLegal h := absurd rfl h
  addrTop := by decide
  ctrlBits := rfl
  settleMin := by decide
  baudPos := by decide
  quietTe := nofun
  traceKept := rfl
  pulseOver _ := rfl

/-! ### The end of a run -/

/-- Settles O57, by induction on what is presented: the first step takes one thing of it and keeps the invariant, and
then its call has not returned or the rest is a run again. -/
theorem runEndsOrHangs : Obligations.RunEndsOrHangs := by
  intro s hinv hfree
  generalize hin : s.inputs = items
  induction items generalizing s with
  | nil => exact .inl ⟨s, rfl, hin, hfree, hinv.idlePhase hfree⟩
  | cons x rest ih =>
    obtain ⟨t, hstep⟩ := step_next hfree hin
    obtain ⟨hrest, -⟩ := stepTakesInputsInOrder s t x rest hfree hin hstep
    cases hwait : t.waitingOn with
    | some c =>
      exact .inr ⟨1, t, c, by simp, core_run_succ 0 hstep, hwait⟩
    | none =>
      rcases ih t (everyStepKeepsTheInvariant s t hinv hstep) hwait hrest with
        ⟨u, hrun, hended⟩ | ⟨k, u, c, hk, hrun, hhung⟩
      · exact .inl ⟨u, (core_run_succ _ hstep).trans hrun, hended⟩
      · exact .inr ⟨k + 1, u, c, Nat.succ_le_succ hk, (core_run_succ k hstep).trans hrun, hhung⟩

end Sys2Proof.Machine

end

section
/-! SUPPORT. What a free TFC does with the next thing presented, a request, a command call or nothing
(20_memory.md R33, 30_encoding.md R49), and the format names of SET_CLOCK_DISPLAY (45_command_payloads.md R76). -/

namespace Sys2Proof.Machine

open Sys2Proof.Safety

/-! ### The step of a free TFC -/

/-- A request that decodes is served by the instruction it decodes to (R37). -/
theorem serveRequest_of_decode {q : List Byte} {i : Instr} (hq : decode q = .ok i) (s : State) :
    serveRequest q s = exec i s := by
  simp only [serveRequest, hq]

/-- A free TFC that is presented a command call runs its pseudo-instruction after the gap before it (R49). -/
theorem step_command {s : State} {c : Command} {rest : List HostItem} (hfree : s.waitingOn = none)
    (hin : s.inputs = .command c :: rest) : step s = exec c.toInstr (whenServed s rest) := by
  unfold step
  rw [hfree, hin]
  rfl

/-- With nothing presented, what the gap before a request leaves is what the passing of time leaves. -/
theorem passTime_eq_whenServed {s : State} (hin : s.inputs = []) : passTime s = whenServed s [] := by
  rw [← hin]
  rfl

/-- Settles O6: the request is served after the gap before it, by what it decodes to. -/
theorem stepRunsDecodedRequest : Obligations.StepRunsDecodedRequest := by
  intro s q i rest hfree hin hq
  rw [step_request hfree hin, serveRequest_of_decode hq]

/-- Settles O7: no byte of a command call is decoded. -/
theorem stepRunsCommandCall : Obligations.StepRunsCommandCall :=
  fun _ _ _ hfree hin => step_command hfree hin

/-- Settles O10: an idle step only lets time pass. -/
theorem idleStepWaits : Obligations.IdleStepWaits := by
  intro s hfree hin
  rw [step_idle hfree hin, passTime_eq_whenServed hin]

/-! ### Format names without a byte -/

theorem setClockDisplayData_formats {p : Params} {df : Name} {dr dcs dce : Int} {tf : Name} {tr tcs tce : Int}
    {d : List Byte} (h : setClockDisplayData p df dr dcs dce tf tr tcs tce = some d) :
    p.dateFmt.lookup df ≠ none ∧ p.timeFmt.lookup tf ≠ none := by
  unfold setClockDisplayData at h
  split at h
  · rename_i hdf _ _ _ htf _ _ _
    exact ⟨Option.ne_none_iff_exists'.mpr ⟨_, hdf⟩, Option.ne_none_iff_exists'.mpr ⟨_, htf⟩⟩
  · cases h

/-- Settles O45: data come out only when both format names have a byte. -/
theorem unknownFormatNameRefusedOnHost : Obligations.UnknownFormatNameRefusedOnHost := by
  intro s dateFormat timeFormat dateRow dateColStart dateColEnd timeRow timeColStart timeColEnd hunknown
  refine command_refused rfl fun d hd => ?_
  obtain ⟨hdate, htime⟩ := setClockDisplayData_formats hd
  exact hunknown.elim hdate htime

end Sys2Proof.Machine

end
